-- ==== Sys2Proof/Word.lean ====
section
/-! DEFINITION. The widths of hash_block_mixer's values (00_scope.md R6, R7). -/

namespace Sys2Proof

/-- A byte, 8 bits (R6). -/
abbrev Byte := BitVec 8

/-- `u64`: an accumulator, a key word, a byte count (R6, R7). -/
abbrev Word := BitVec 64

/-- The seed, 32 bits (R6). -/
abbrev Seed := BitVec 32

/-- The 128-bit DATA field of a command (R48). -/
abbrev Data := BitVec 128

/-- A command word CMD[255:0] (R48). -/
abbrev Cmd := BitVec 256

end Sys2Proof
end

