-- ==== Sys2Proof/Syntax.lean ====
section
/-! DEFINITION. The seven commands of 30_encoding.md R52, and the four causes of a malformed word. -/

namespace Sys2Proof

/-- A command with the operands it reads from its word (30_encoding.md R51); fields a command ignores
are no part of it. -/
inductive Instr where
  /-- NOP, OP 0x0 (R69). -/
  | nop
  /-- INIT, OP 0x1: the seed is DATA[31:0] (R70). -/
  | init (seed : Seed)
  /-- BLOCK, OP 0x2: the key words DATA[63:0] and DATA[127:64] (R72). -/
  | block (k1 k2 : Word)
  /-- FINAL, OP 0x3: LEN, the tail bytes DATA[119:0], totalLen TOT (R73). -/
  | final (len : BitVec 5) (tail : BitVec 120) (total : Word)
  /-- LOADH, OP 0x4: the new H1 is DATA[63:0], the new H2 DATA[127:64] (R71). -/
  | loadh (h1 h2 : Word)
  /-- UPDATE, OP 0x5: the chunk length LEN and the chunk bytes DATA (R79). -/
  | update (len : BitVec 5) (chunk : Data)
  /-- DIGEST, OP 0x6 (R82). -/
  | digest
  deriving DecidableEq, Repr

/-- Why a command word is malformed (30_encoding.md R54, 60_exceptions.md R90). -/
inductive Malformed where
  /-- BAD_OP: OP in 0x7 to 0xF. -/
  | badOp
  /-- BAD_TAILLEN: FINAL with LEN[4] = 1. -/
  | badTailLen
  /-- BAD_CHUNKLEN: UPDATE with LEN in 17 to 31, where the streaming module is present. -/
  | badChunkLen
  /-- NO_STREAM: UPDATE or DIGEST where the streaming module is absent. -/
  | noStream
  deriving DecidableEq, Repr

end Sys2Proof
end

