-- ==== Sys2Proof/WellFormed.lean ====
section
/-! DEFINITION. The operand values that make a command legal (30_encoding.md R51, R52). -/

namespace Sys2Proof

/-- FINAL's LEN[4] must be 0 and UPDATE's LEN is 0 to 16 (R51); every other operand value is legal. -/
def Instr.wf : Instr → Bool
  | .nop => true
  | .init _ => true
  | .block _ _ => true
  | .final len _ _ => !len[4]
  | .loadh _ _ => true
  | .update len _ => decide (len.toNat ≤ 16)
  | .digest => true

/-- Whether the command exists in a build: UPDATE and DIGEST only when HAS_STREAM = 1 (R52, R74). -/
def Instr.present (hasStream : Bool) : Instr → Bool
  | .nop => true
  | .init _ => true
  | .block _ _ => true
  | .final _ _ _ => true
  | .loadh _ _ => true
  | .update _ _ => hasStream
  | .digest => hasStream

end Sys2Proof
end

