-- ==== Sys2Proof/Decode.lean ====
section
/-! DEFINITION. The command word: fields, decoder, encoder and opcode rows (30_encoding.md). -/

namespace Sys2Proof

/-! ## Fields (R48, R49) -/

/-- `cmd_op` = CMD[3:0]. -/
def cmdOp (w : Cmd) : BitVec 4 := w.extractLsb' 0 4

/-- `cmd_len` = CMD[12:8]. -/
def cmdLen (w : Cmd) : BitVec 5 := w.extractLsb' 8 5

/-- `cmd_data` = CMD[191:64]. -/
def cmdData (w : Cmd) : Data := w.extractLsb' 64 128

/-- `cmd_tot` = CMD[255:192]. -/
def cmdTot (w : Cmd) : Word := w.extractLsb' 192 64

/-! ## Decoder (R53) -/

/-- The decoder of R53, total on all 2^256 words; the tests stand in R53's order, so an UPDATE of
more than 16 bytes without the streaming module reports `noStream` (60_exceptions.md R91). -/
def decode (hasStream : Bool) (w : Cmd) : Except Malformed Instr :=
  let len := cmdLen w
  let data := cmdData w
  match (cmdOp w).toNat with
  | 0x0 => .ok .nop
  | 0x1 => .ok (.init (data.extractLsb' 0 32))
  | 0x2 => .ok (.block (data.extractLsb' 0 64) (data.extractLsb' 64 64))
  | 0x3 => if len[4] then .error .badTailLen else .ok (.final len (data.extractLsb' 0 120) (cmdTot w))
  | 0x4 => .ok (.loadh (data.extractLsb' 0 64) (data.extractLsb' 64 64))
  | 0x5 =>
    if hasStream then
      if len.toNat ≤ 16 then .ok (.update len data) else .error .badChunkLen
    else .error .noStream
  | 0x6 => if hasStream then .ok .digest else .error .noStream
  | _ => .error .badOp

/-- The cause code shown in ECAUSE (60_exceptions.md R90). -/
def causeCode : Malformed → BitVec 4
  | .badOp => 1
  | .badTailLen => 2
  | .badChunkLen => 3
  | .noStream => 4

/-! ## Encoder (R48, R51, R52) -/

/-- A command word from its four fields; CMD[7:4] and CMD[63:13] are written as 0 (R50). -/
def packCmd (op : BitVec 4) (len : BitVec 5) (data : Data) (tot : Word) : Cmd :=
  tot ++ data ++ 0#51 ++ len ++ 0#4 ++ op

/-- OP of a command (R52). -/
def opcode : Instr → BitVec 4
  | .nop => 0x0
  | .init _ => 0x1
  | .block _ _ => 0x2
  | .final _ _ _ => 0x3
  | .loadh _ _ => 0x4
  | .update _ _ => 0x5
  | .digest => 0x6

/-- LEN of a command, 0 where the command ignores it (R50, R51). -/
def lenField : Instr → BitVec 5
  | .final len _ _ => len
  | .update len _ => len
  | .nop | .init _ | .block _ _ | .loadh _ _ | .digest => 0

/-- DATA with the byte lanes from `len` on written as 0. -/
def keepLanes (len : BitVec 5) (data : Data) : Data :=
  data &&& ~~~(BitVec.allOnes 128 <<< (8 * len.toNat))

/-- DATA of a command, bits it ignores written as 0 (R50, R51): UPDATE ignores the lanes from LEN on,
FINAL ignores DATA[127:120] only. -/
def dataField : Instr → Data
  | .init seed => seed.zeroExtend 128
  | .block k1 k2 => k2 ++ k1
  | .final _ tail _ => tail.zeroExtend 128
  | .loadh h1 h2 => h2 ++ h1
  | .update len chunk => keepLanes len chunk
  | .nop | .digest => 0

/-- TOT of a command, 0 where the command ignores it (R50, R51). -/
def totField : Instr → Word
  | .final _ _ total => total
  | .nop | .init _ | .block _ _ | .loadh _ _ | .update _ _ | .digest => 0

/-- The command word of a command. -/
def encode (i : Instr) : Cmd := packCmd (opcode i) (lenField i) (dataField i) (totField i)

/-- A command with what it ignores of its operands written as 0, as `encode` does: the command that
decoding the encoded word gives. Only UPDATE carries such bits, its lanes from LEN on (R51). -/
def Instr.dropIgnored : Instr → Instr
  | .nop => .nop
  | .init seed => .init seed
  | .block k1 k2 => .block k1 k2
  | .final len tail total => .final len tail total
  | .loadh h1 h2 => .loadh h1 h2
  | .update len chunk => .update len (keepLanes len chunk)
  | .digest => .digest

/-! ## Opcode rows (R58) -/

/-- A row of spec/opcode_table.json: match and mask over CMD[15:0], the row's constraint on LEN and
whether it requires HAS_STREAM = 1. -/
structure OpRow where
  mnemonic : String
  pattern : BitVec 16
  mask : BitVec 16
  lenAtMost : Option Nat
  needsStream : Bool
  deriving DecidableEq, Repr

/-- The seven rows, as the table has them. -/
def opTable : List OpRow :=
  [ ⟨"NOP", 0x0000, 0x000F, none, false⟩,
    ⟨"INIT", 0x0001, 0x000F, none, false⟩,
    ⟨"BLOCK", 0x0002, 0x000F, none, false⟩,
    ⟨"FINAL", 0x0003, 0x100F, none, false⟩,
    ⟨"LOADH", 0x0004, 0x000F, none, false⟩,
    ⟨"UPDATE", 0x0005, 0x000F, some 16, true⟩,
    ⟨"DIGEST", 0x0006, 0x000F, none, true⟩ ]

/-- A word selects a row when its masked low bits are the row's match and the row's constraint holds
(R58); a row that requires HAS_STREAM = 1 is selected only where the module is present. -/
def rowSelects (hasStream : Bool) (r : OpRow) (w : Cmd) : Bool :=
  (w.extractLsb' 0 16 &&& r.mask == r.pattern) &&
    (match r.lenAtMost with
      | none => true
      | some m => decide ((cmdLen w).toNat ≤ m)) &&
    (!r.needsStream || hasStream)

/-- A command's mnemonic (R52). -/
def mnemonic : Instr → String
  | .nop => "NOP"
  | .init _ => "INIT"
  | .block _ _ => "BLOCK"
  | .final _ _ _ => "FINAL"
  | .loadh _ _ => "LOADH"
  | .update _ _ => "UPDATE"
  | .digest => "DIGEST"

/-! ## The host's view of a table row -/

/-- The command word whose low `nbits` bits are `w`'s and whose other bits are 0. -/
def tableWord (nbits w : Nat) : Cmd := BitVec.ofNat 256 (w % 2 ^ nbits)

/-- What the decoder of a build with the streaming module reads from a table word (log 12). -/
def decodeTableWord (nbits w : Nat) : Option Instr :=
  match decode true (tableWord nbits w) with
  | .ok i => some i
  | .error _ => none

end Sys2Proof
end

