-- ==== Sys2Proof/Config.lean ====
section
/-! DEFINITION. What an implementation fixes (00_scope.md R5) and the values the spec leaves free. -/

namespace Sys2Proof

/-- The latency parameters LAT_* of 00_scope.md R5: clock cycles from the acceptance of a command to
the cycle its effect is visible. -/
structure Latencies where
  nop : Nat
  init : Nat
  loadh : Nat
  block : Nat
  final : Nat
  update : Nat
  digest : Nat
  /-- LAT_BAD, of a malformed command. -/
  bad : Nat
  deriving DecidableEq, Repr

/-- Every LAT is an integer of at least 1 (R5). -/
def Latencies.wf (l : Latencies) : Bool :=
  decide (1 ≤ l.nop ∧ 1 ≤ l.init ∧ 1 ≤ l.loadh ∧ 1 ≤ l.block ∧ 1 ≤ l.final ∧ 1 ≤ l.update ∧
    1 ≤ l.digest ∧ 1 ≤ l.bad)

/-- A build of the block: the parameters of R5. Every statement of the package is about every build;
State holds the parameters as data no step changes (DESIGN CHOICE, log 1). -/
structure Build where
  hasStream : Bool
  lat : Latencies
  deriving DecidableEq, Repr

/-- The build State.reset takes: streaming module present, every latency 1, the "single-cycle
implementation" of 70_reset_and_hazards.md R112 (DESIGN CHOICE, log 1). -/
def Build.singleCycle : Build :=
  { hasStream := true,
    lat := { nop := 1, init := 1, loadh := 1, block := 1, final := 1, update := 1, digest := 1, bad := 1 } }

/-! Free values: constants with no body (70_reset_and_hazards.md R109; log 6). The argument is the
number of the cycle in which the host reads, so that every cycle draws anew. -/

/-- What h1_o shows in a cycle where cmd_ready = 0. -/
opaque Config.busyH1 : Nat → Word
/-- What h2_o shows in a cycle where cmd_ready = 0. -/
opaque Config.busyH2 : Nat → Word
/-- What d1_o shows in a cycle where cmd_ready = 0. -/
opaque Config.busyD1 : Nat → Word
/-- What d2_o shows in a cycle where cmd_ready = 0. -/
opaque Config.busyD2 : Nat → Word
/-- What digest_o shows in a cycle where cmd_ready = 0. -/
opaque Config.busyDigest : Nat → BitVec 128
/-- What total_o shows in a cycle where cmd_ready = 0. -/
opaque Config.busyTotal : Nat → Word
/-- What status_o[15:1] shows in a cycle where cmd_ready = 0. -/
opaque Config.busyStatus : Nat → BitVec 15

/-- The tail byte DIGEST takes at index `i` where 41_streaming_hasher.md R82's index
`TAILCNT - tl + i` would be negative: the spec says this cannot occur and states no value, so none is
chosen (DESIGN CHOICE, log 8). The other arguments are TAILCNT and tl. -/
opaque Config.windowUnderrunByte : Nat → Nat → Nat → Byte

end Sys2Proof
end

