-- ==== Sys2Proof/Machine/State.lean ====
section
/-! DEFINITION. The machine's state: the registers of 10_state.md R13, BUSY (R26), the build's
parameters (00_scope.md R5) and what the host drives (70_reset_and_hazards.md R107). -/

namespace Sys2Proof.Machine

/-- The Streaming Hasher's registers (10_state.md R19). -/
structure StreamRegs where
  /-- BUF[0..15], the incomplete-block buffer. -/
  buf : Vector Byte 16
  /-- BUFCNT, the pending count, 0 to 15 (R20). -/
  bufcnt : BitVec 4
  /-- TAIL[0..14], the tail window, oldest byte first. -/
  tail : Vector Byte 15
  /-- TAILCNT, the number of bytes the window holds (R21). -/
  tailcnt : BitVec 4
  /-- TOTAL, the byte count modulo 2^64 (R22). -/
  total : Word
  deriving DecidableEq, Repr

/-- What the host drives at one rising edge of `clk` (70_reset_and_hazards.md R104, R107). The ports
cmd_op, cmd_len, cmd_data and cmd_tot are slices of `cmd` (30_encoding.md R49). -/
structure Pins where
  rst : Bool
  valid : Bool
  cmd : Cmd
  deriving DecidableEq, Repr

/-- The state of the block and of the host's hands on it. -/
structure State where
  /-- H1 (R15). -/
  h1 : Word
  /-- H2 (R15). -/
  h2 : Word
  /-- D1 (R16). -/
  d1 : Word
  /-- D2 (R16). -/
  d2 : Word
  /-- ERR (R17). -/
  err : Bool
  /-- ECAUSE (R18). -/
  ecause : BitVec 4
  /-- The stream registers; `none` when HAS_STREAM = 0, where they do not exist (R23). -/
  stream : Option StreamRegs
  /-- Cycles until the effect of the command in flight is visible; BUSY is `busy ≠ 0` (R26, R108). -/
  busy : Nat
  /-- The build's latencies, which nothing writes (R27). -/
  lat : Latencies
  /-- What the host drives at the coming edges, the next edge first; past its end the host is idle
  (DESIGN CHOICE, log 4). -/
  pins : List Pins
  /-- How many commands have been accepted: the position in the host's sequence (R14). -/
  index : Nat
  /-- How many edges have passed: the model's own counter, from which the outputs' free values are
  drawn (DESIGN CHOICE, log 6). -/
  cycle : Nat
  deriving DecidableEq, Repr

/-- Why a step stops with a fault. No constructor: every command word has a defined effect and the
block is never stuck (60_exceptions.md R88, R93; 70_reset_and_hazards.md R111). -/
inductive Fault where
  deriving DecidableEq, Repr

/-- Why a step is refused. -/
inductive Refusal where
  /-- The instruction has no meaning in the model yet. Safe. Nothing raises it: every command has one. -/
  | notModelled (mnemonic : String)
  deriving DecidableEq, Repr

/-- The stream registers after reset (10_state.md R30). -/
def StreamRegs.reset : StreamRegs :=
  { buf := Vector.replicate 16 0, bufcnt := 0, tail := Vector.replicate 15 0, tailcnt := 0, total := 0 }

/-- HAS_STREAM: whether the streaming module is present (00_scope.md R5). -/
def State.hasStream (s : State) : Bool := s.stream.isSome

/-- The build a state belongs to. -/
def State.build (s : State) : Build := { hasStream := s.hasStream, lat := s.lat }

/-- The state after reset of a build (10_state.md R30), with a host that drives nothing. -/
def State.resetOf (b : Build) : State :=
  { h1 := 0, h2 := 0, d1 := 0, d2 := 0, err := false, ecause := 0,
    stream := if b.hasStream then some StreamRegs.reset else none,
    busy := 0, lat := b.lat, pins := [], index := 0, cycle := 0 }

/-- The machine right after reset, of the build the model's runs take (log 1). -/
def State.reset : State := State.resetOf Build.singleCycle

end Sys2Proof.Machine
end

