-- ==== Sys2Proof/Machine/Flags.lean ====
section
/-! DEFINITION. The only flags, ERR and ECAUSE, and the status word that shows them (10_state.md R17,
R18, R24). No arithmetic sets a flag (40_block_mixer.md R68). -/

namespace Sys2Proof.Machine

/-- ECAUSE after a malformed command: the first cause is kept (60_exceptions.md R89). -/
def nextCause (err : Bool) (ecause : BitVec 4) (m : Malformed) : BitVec 4 :=
  if err then ecause else causeCode m

/-- status_o[15:1]: TAILCNT, BUFCNT, ECAUSE, the reserved 0, HAS_STREAM and ERR; the counts read 0
when HAS_STREAM = 0 (10_state.md R23, R24). -/
def statusFields (s : State) : BitVec 15 :=
  (match s.stream with | some st => st.tailcnt | none => 0) ++
    (match s.stream with | some st => st.bufcnt | none => 0) ++
    s.ecause ++ 0#1 ++ BitVec.ofBool s.hasStream ++ BitVec.ofBool s.err

/-- status_o: the fields above BUSY in bit 0 (R24). -/
def statusWord (fields : BitVec 15) (busy : Bool) : BitVec 16 := fields ++ BitVec.ofBool busy

end Sys2Proof.Machine
end

