-- ==== Sys2Proof/Machine/Operands.lean ====
section
/-! DEFINITION. How commands take their operands from DATA, and how words are built from bytes
(20_memory.md R33 to R38; 00_scope.md R10). -/

namespace Sys2Proof.Machine

/-- Byte lane `i` of a data field: bits 8i+7 down to 8i; the lowest lane carries the earliest byte
(R33, R35, R36). -/
def lane {w : Nat} (d : BitVec w) (i : Nat) : Byte := d.extractLsb' (8 * i) 8

/-- Byte `i` of an array of bytes. Every index the rules use lies inside the array. -/
def byteAt {k : Nat} (v : Vector Byte k) (i : Nat) : Byte := v[i]?.getD 0

/-- `le64(b[j..j+7])`: the byte at the lowest index is the least significant (00_scope.md R10). -/
def le64 (b : Nat → Byte) (j : Nat) : Word :=
  (b j).zeroExtend 64 |||
    (b (j + 1)).zeroExtend 64 <<< 8 |||
    (b (j + 2)).zeroExtend 64 <<< 16 |||
    (b (j + 3)).zeroExtend 64 <<< 24 |||
    (b (j + 4)).zeroExtend 64 <<< 32 |||
    (b (j + 5)).zeroExtend 64 <<< 40 |||
    (b (j + 6)).zeroExtend 64 <<< 48 |||
    (b (j + 7)).zeroExtend 64 <<< 56

/-- INIT's operand: the seed zero-extended to 64 bits (R37). -/
def seedWord (seed : Seed) : Word := seed.zeroExtend 64

/-- FINAL's `tl`: LEN[3:0] (30_encoding.md R51). -/
def tailLen (len : BitVec 5) : BitVec 4 := len.extractLsb' 0 4

/-- FINAL's tail bytes `t[0..14]` (R35). -/
def tailBytes (tail : BitVec 120) : Vector Byte 15 := Vector.ofFn fun i => lane tail i.1

end Sys2Proof.Machine
end

