-- ==== Sys2Proof/Machine/Mixer.lean ====
section
/-! DEFINITION. The pure functions of the block mixer (40_block_mixer.md section 2). All arithmetic is
modulo 2^64 (00_scope.md R8), which is what BitVec's `+` and `*` compute. -/

namespace Sys2Proof.Machine

/-! ## Constants (R59) -/

/-- C1, the key multiplier c1. PRESUMED: the spec marks the value as general knowledge (log 2). -/
def mulC1 : Word := 0x87c37b91114253d5
/-- C2, the key multiplier c2. PRESUMED: the spec marks the value as general knowledge (log 2). -/
def mulC2 : Word := 0x4cf5ad432745937f
/-- RK1, the rotation of k1. -/
def rotK1 : Nat := 31
/-- RK2, the rotation of k2. -/
def rotK2 : Nat := 33
/-- RH1, the rotation of h1. -/
def rotH1 : Nat := 27
/-- RH2, the rotation of h2. -/
def rotH2 : Nat := 31
/-- MH, the accumulator multiplier. -/
def mulH : Word := 5
/-- N1, the h1 additive constant. -/
def addN1 : Word := 0x52dce729
/-- N2, the h2 additive constant. -/
def addN2 : Word := 0x38495ab5
/-- F1, fmix64's first multiplier. -/
def mulF1 : Word := 0xff51afd7ed558ccd
/-- F2, fmix64's second multiplier. -/
def mulF2 : Word := 0xc4ceb9fe1a85ec53
/-- FS, fmix64's shift. -/
def shiftF : Nat := 33

/-! ## Functions -/

/-- `rotl64(x, r)` for 1 <= r <= 63 (00_scope.md R9). -/
def rotl64 (x : Word) (r : Nat) : Word := x <<< r ||| x >>> (64 - r)

/-- The key mix of k1 (R60). -/
def mixK1 (k : Word) : Word := rotl64 (k * mulC1) rotK1 * mulC2

/-- The key mix of k2 (R60). -/
def mixK2 (k : Word) : Word := rotl64 (k * mulC2) rotK2 * mulC1

/-- The new h1 of a block mix: it adds the input h2 (R61). -/
def mixH1 (h1 h2 k1 : Word) : Word := (rotl64 (h1 ^^^ mixK1 k1) rotH1 + h2) * mulH + addN1

/-- The new h2 of a block mix: it adds `a`, the new h1 (R61). -/
def mixH2 (a h2 k2 : Word) : Word := (rotl64 (h2 ^^^ mixK2 k2) rotH2 + a) * mulH + addN2

/-- The block mix: the h1 half is finished before the h2 half begins (R61; 90_conflicts.md C3). -/
def mixBlock (h1 h2 k1 k2 : Word) : Word × Word :=
  let a := mixH1 h1 h2 k1
  (a, mixH2 a h2 k2)

/-- The tail switch's loop, from byte `i - 1` down to byte 0 (R62). -/
def tailKeysFrom (t : Vector Byte 15) : Nat → Word × Word → Word × Word
  | 0, k => k
  | i + 1, (k1, k2) =>
    if i ≥ 8 then tailKeysFrom t i (k1, k2 ||| (byteAt t i).zeroExtend 64 <<< (8 * (i - 8)))
    else tailKeysFrom t i (k1 ||| (byteAt t i).zeroExtend 64 <<< (8 * i), k2)

/-- The tail keys (k1, k2) of the first `tl` tail bytes (R62). -/
def tailKeys (t : Vector Byte 15) (tl : BitVec 4) : Word × Word := tailKeysFrom t tl.toNat (0, 0)

/-- One `x ^= x >> 33` of fmix64 (R63). -/
def xorShift (x : Word) : Word := x ^^^ x >>> shiftF

/-- The single-value finalization mix (R63). -/
def fmix64 (x : Word) : Word := xorShift (xorShift (xorShift x * mulF1) * mulF2)

/-- Finalization after the tail folds: length, cross-adds and fmix64 (R64). -/
def finishMix (h1 h2 total : Word) : Word × Word :=
  let h1 := h1 ^^^ total
  let h2 := h2 ^^^ total
  let h1 := h1 + h2
  let h2 := h2 + h1
  let h1 := fmix64 h1
  let h2 := fmix64 h2
  let h1 := h1 + h2
  (h1, h2 + h1)

/-- Finalization of an accumulator pair with `tl` tail bytes and a total length (R64): the k2 fold only
from `tl` = 9, the k1 fold only from `tl` = 1. -/
def finalize (h1 h2 : Word) (t : Vector Byte 15) (tl : BitVec 4) (total : Word) : Word × Word :=
  let k := tailKeys t tl
  let h2 := if tl.toNat ≥ 9 then h2 ^^^ mixK2 k.2 else h2
  let h1 := if tl.toNat ≥ 1 then h1 ^^^ mixK1 k.1 else h1
  finishMix h1 h2 total

end Sys2Proof.Machine
end

