-- ==== Sys2Proof/Machine/Ops.lean ====
section
/-! DEFINITION. The operations the commands share: writing registers, raising CmdError, occupying the
block for a latency, the chunk and tail-window operations of the stream, and reset. There is no
memory (20_memory.md R32) and no return from an error (60_exceptions.md R94). -/

namespace Sys2Proof.Machine

/-! ## Registers -/

/-- Write the accumulator pair (10_state.md R15). -/
def State.setAcc (s : State) (h : Word × Word) : State := { s with h1 := h.1, h2 := h.2 }

/-- Write the digest latch, both words at once (R16). -/
def State.setDigest (s : State) (d : Word × Word) : State := { s with d1 := d.1, d2 := d.2 }

/-- Write the stream registers (R19). -/
def State.setStream (s : State) (st : StreamRegs) : State := { s with stream := some st }

/-- Set every stream register to 0 where there are any (40_block_mixer.md R70, 10_state.md R30). -/
def State.clearStream (s : State) : State := { s with stream := s.stream.map fun _ => StreamRegs.reset }

/-- The command accepted at this edge has latency `l`: its effect is visible after `l - 1` further
edges, and BUSY is 1 until then (10_state.md R26, 70_reset_and_hazards.md R108). -/
def State.occupy (s : State) (l : Nat) : State := { s with busy := l - 1 }

/-! ## CmdError (60_exceptions.md R89) -/

/-- The effect of `raise CmdError`: the cause is recorded if ERR was 0, ERR is set, nothing else
changes, and BUSY is 1 for LAT_BAD - 1 cycles. -/
def cmdError (m : Malformed) (s : State) : State :=
  { s with ecause := nextCause s.err s.ecause m, err := true }.occupy s.lat.bad

/-! ## Bytes -/

/-- `v[off + i] <- src i` for `0 <= i < n`; the other bytes keep their values. -/
def writeBytes {k : Nat} (v : Vector Byte k) (off n : Nat) (src : Nat → Byte) : Vector Byte k :=
  Vector.ofFn fun j => if off ≤ j.1 ∧ j.1 < off + n then src (j.1 - off) else v[j]

/-- The block mix of the pair `h` with the 16 bytes from `b j` on (20_memory.md R34). -/
def mixBytes (h : Word × Word) (b : Nat → Byte) (j : Nat) : Word × Word :=
  mixBlock h.1 h.2 (le64 b j) (le64 b (j + 8))

/-! ## UPDATE's steps (41_streaming_hasher.md R76, R77, R79) -/

/-- The tail window update (R77). -/
def tailUpdate (st : StreamRegs) (c : Nat → Byte) (n : Nat) : StreamRegs :=
  let cnt := st.tailcnt.toNat
  if n ≥ 15 then
    { st with tail := Vector.ofFn fun i => c (n - 15 + i.1), tailcnt := 15 }
  else if cnt + n > 15 then
    let drop := cnt + n - 15
    let keep := cnt - drop
    { st with
      tail := Vector.ofFn fun i => if i.1 < keep then byteAt st.tail (drop + i.1) else c (i.1 - keep),
      tailcnt := 15 }
  else
    { st with tail := writeBytes st.tail cnt n c, tailcnt := BitVec.ofNat 4 (cnt + n) }

/-- Steps 3, 4 and 5 from chunk offset `off` (R79). A chunk has at most 16 bytes, so R79's loop runs at
most once (R76, step 3) and stands here as one conditional. -/
def chunkRest (h : Word × Word) (st : StreamRegs) (c : Nat → Byte) (n off : Nat) :
    (Word × Word) × StreamRegs :=
  let whole := decide (n - off ≥ 16)
  let h := if whole then mixBytes h c off else h
  let off := if whole then off + 16 else off
  let rem := n - off
  (h, tailUpdate
    { st with buf := writeBytes st.buf 0 rem fun i => c (off + i), bufcnt := BitVec.ofNat 4 rem } c n)

/-- A legal UPDATE's effect on the accumulators and the stream registers, for the chunk
`c 0 .. c (n - 1)` (R79). -/
def takeChunk (h : Word × Word) (st : StreamRegs) (c : Nat → Byte) (n : Nat) :
    (Word × Word) × StreamRegs :=
  let st := { st with total := st.total + BitVec.ofNat 64 n }
  let cnt := st.bufcnt.toNat
  if cnt ≠ 0 then
    if cnt + n ≥ 16 then
      let need := 16 - cnt
      let buf := writeBytes st.buf cnt need c
      chunkRest (mixBytes h (byteAt buf) 0) { st with buf := buf, bufcnt := 0 } c n need
    else
      (h, tailUpdate
        { st with buf := writeBytes st.buf cnt n c, bufcnt := BitVec.ofNat 4 (cnt + n) } c n)
  else chunkRest h st c n 0

/-! ## DIGEST's snapshot (R82) -/

/-- tailLen = TOTAL mod 16. -/
def digestTailLen (st : StreamRegs) : BitVec 4 := st.total.extractLsb' 0 4

/-- The tail bytes DIGEST hands to finalization: the tl-byte suffix of the window, then zeros. The
free value stands where the index would be negative, which R82 says cannot occur (log 8). -/
def digestTail (st : StreamRegs) : Vector Byte 15 :=
  Vector.ofFn fun i =>
    let tl := (digestTailLen st).toNat
    let cnt := st.tailcnt.toNat
    if i.1 < tl then
      if tl ≤ cnt + i.1 then byteAt st.tail (cnt + i.1 - tl)
      else Config.windowUnderrunByte cnt tl i.1
    else 0

/-! ## Reset (70_reset_and_hazards.md R104) -/

/-- An edge with `rst = 1`: every register takes its reset value and a command in flight is abandoned.
The build, the host's pins and the model's counters are no registers and stay. -/
def State.applyReset (s : State) : State :=
  { s with h1 := 0, h2 := 0, d1 := 0, d2 := 0, err := false, ecause := 0, busy := 0 }.clearStream

end Sys2Proof.Machine
end

