-- ==== Sys2Proof/Machine/BlockMixer.lean ====
section
/-! DEFINITION. The commands of the block mixer: NOP, INIT, LOADH, BLOCK, FINAL (40_block_mixer.md
section 3). Each is the effect of one accepted command, its latency included. -/

namespace Sys2Proof.Machine

/-- NOP (R69). -/
def execNop (s : State) : Host.Outcome State Fault Refusal := .next (s.occupy s.lat.nop)

/-- INIT (R70): D1, D2, ERR and ECAUSE are not written. -/
def execInit (seed : Seed) (s : State) : Host.Outcome State Fault Refusal :=
  .next (((s.setAcc (seedWord seed, seedWord seed)).clearStream).occupy s.lat.init)

/-- LOADH (R71). -/
def execLoadh (h1 h2 : Word) (s : State) : Host.Outcome State Fault Refusal :=
  .next ((s.setAcc (h1, h2)).occupy s.lat.loadh)

/-- BLOCK (R72): the stream registers are not written. -/
def execBlock (k1 k2 : Word) (s : State) : Host.Outcome State Fault Refusal :=
  .next ((s.setAcc (mixBlock s.h1 s.h2 k1 k2)).occupy s.lat.block)

/-- FINAL (R73): H1 and H2 are read and not written. -/
def execFinal (len : BitVec 5) (tail : BitVec 120) (total : Word) (s : State) :
    Host.Outcome State Fault Refusal :=
  if len[4] then .next (cmdError .badTailLen s)
  else
    .next ((s.setDigest (finalize s.h1 s.h2 (tailBytes tail) (tailLen len) total)).occupy s.lat.final)

end Sys2Proof.Machine
end

