-- ==== Sys2Proof/Machine/StreamingHasher.lean ====
section
/-! DEFINITION. The commands of the streaming hasher: UPDATE and DIGEST (41_streaming_hasher.md
section 2). -/

namespace Sys2Proof.Machine

/-- UPDATE (R79): the absent module is tested before the length (60_exceptions.md R91). -/
def execUpdate (len : BitVec 5) (chunk : Data) (s : State) : Host.Outcome State Fault Refusal :=
  match s.stream with
  | none => .next (cmdError .noStream s)
  | some st =>
    if len.toNat > 16 then .next (cmdError .badChunkLen s)
    else
      let r := takeChunk (s.h1, s.h2) st (lane chunk) len.toNat
      .next (((s.setAcc r.1).setStream r.2).occupy s.lat.update)

/-- DIGEST (R82): only D1 and D2 are written. -/
def execDigest (s : State) : Host.Outcome State Fault Refusal :=
  match s.stream with
  | none => .next (cmdError .noStream s)
  | some st =>
    .next ((s.setDigest (finalize s.h1 s.h2 (digestTail st) (digestTailLen st) st.total)).occupy
      s.lat.digest)

end Sys2Proof.Machine
end

