-- ==== Sys2Proof/Machine/Dispatch.lean ====
section
/-! DEFINITION. One arm per command: the effect of one accepted command. -/

namespace Sys2Proof.Machine

def exec (i : Instr) (s : State) : Host.Outcome State Fault Refusal :=
  match i with
  | .nop => Sys2Proof.Machine.execNop s
  | .init seed => Sys2Proof.Machine.execInit seed s
  | .block k1 k2 => Sys2Proof.Machine.execBlock k1 k2 s
  | .final len tail total => Sys2Proof.Machine.execFinal len tail total s
  | .loadh h1 h2 => Sys2Proof.Machine.execLoadh h1 h2 s
  | .update len chunk => Sys2Proof.Machine.execUpdate len chunk s
  | .digest => Sys2Proof.Machine.execDigest s

end Sys2Proof.Machine
end

