-- ==== Sys2Proof/Machine/Handshake.lean ====
section
/-! DEFINITION. The command handshake, edge by edge (70_reset_and_hazards.md R104, R107, R108), and
sequences of accepted commands (20_memory.md R42). -/

namespace Sys2Proof.Machine

/-- An idle host. -/
def Pins.idle : Pins := { rst := false, valid := false, cmd := 0 }

/-- A host that offers a command. -/
def Pins.offer (w : Cmd) : Pins := { rst := false, valid := true, cmd := w }

/-- What the host drives at the next edge; idle past the end of the list (log 4). -/
def State.headPins (s : State) : Pins := s.pins.headD Pins.idle

/-- BUSY: an accepted command's effect is not yet visible (10_state.md R26). -/
def State.busyNow (s : State) : Bool := s.busy != 0

/-- `cmd_ready` in the cycle before the next edge: 0 while `rst = 1` and while busy (R108). -/
def State.ready (s : State) : Bool := !s.headPins.rst && !s.busyNow

/-- Whether the next edge accepts a command: `rst = 0`, `cmd_valid = 1`, `cmd_ready = 1` (R107). -/
def State.accepts (s : State) : Bool := s.ready && s.headPins.valid

/-- An edge passes: the host's drive for it is used up and the cycle counted. -/
def State.tick (s : State) : State := { s with pins := s.pins.tail, cycle := s.cycle + 1 }

/-- One more command is accepted (10_state.md R14). -/
def State.count (s : State) : State := { s with index := s.index + 1 }

/-- The effect of accepting a command word: the decoded command's effect, or CmdError
(30_encoding.md R53). -/
def accept (w : Cmd) (s : State) : Host.Outcome State Fault Refusal :=
  match decode s.hasStream w with
  | .ok i => exec i s.count
  | .error m => .next (cmdError m s.count)

/-- One rising edge of `clk` with the host driving `p`: reset wins (R104), then the command in flight
takes one more cycle, then a command may be accepted (R107, R108). -/
def edge (p : Pins) (s : State) : Host.Outcome State Fault Refusal :=
  if p.rst then .next s.applyReset
  else if s.busyNow then .next { s with busy := s.busy - 1 }
  else if p.valid then accept p.cmd s
  else .next s

/-- A sequence of commands accepted one after the other (20_memory.md R42), timing left out
(70_reset_and_hazards.md R112). -/
def acceptAll : List Cmd → State → Host.Outcome State Fault Refusal
  | [], s => .next s
  | w :: ws, s =>
    match accept w s with
    | .next t => acceptAll ws t
    | .fault f => .fault f
    | .refused r => .refused r

end Sys2Proof.Machine
end

