-- ==== Sys2Proof/Machine/Step.lean ====
section
/-! DEFINITION. One step of the machine: one rising edge of `clk` (70_reset_and_hazards.md R104, R107). -/

namespace Sys2Proof.Machine

/-- The step: the edge with what the host drives at it. -/
def step (s : State) : Host.Outcome State Fault Refusal := edge s.headPins s.tick

/-- The host offers the table word at the next edge and the block is ready for it. -/
def State.withFetchWord (s : State) (nbits w : Nat) : State :=
  { s with pins := Pins.offer (tableWord nbits w) :: s.pins, busy := 0 }

end Sys2Proof.Machine
end

