-- ==== Sys2Proof/Machine/Assembler.lean ====
section
/-! DEFINITION. The assembler of 30_encoding.md R57: lines, what they encode, the pseudo-commands and
the textual form. -/

namespace Sys2Proof.Machine

/-! ## Bytes in a command -/

/-- DATA with byte `i` of the list in lane `i` and the remaining lanes 0 (R57). -/
def packBytes : List Byte → Data
  | [] => 0
  | b :: bs => packBytes bs <<< 8 ||| b.zeroExtend 128

/-- BLOCK with 16 bytes. -/
def blockOf (bytes : List Byte) : Instr :=
  .block ((packBytes bytes).extractLsb' 0 64) ((packBytes bytes).extractLsb' 64 64)

/-- FINAL with up to 15 tail bytes and a total length. -/
def finalOf (bytes : List Byte) (total : Nat) : Instr :=
  .final (BitVec.ofNat 5 bytes.length) ((packBytes bytes).extractLsb' 0 120) (BitVec.ofNat 64 total)

/-- UPDATE with up to 16 chunk bytes. -/
def updateOf (bytes : List Byte) : Instr :=
  .update (BitVec.ofNat 5 bytes.length) (packBytes bytes)

/-! ## Pseudo-commands -/

/-- Bytes 16j to 16j + 15 of a byte sequence, fewer where it ends. -/
def piece (bytes : List Byte) (j : Nat) : List Byte := (bytes.drop (16 * j)).take 16

/-- FEED: ceil(N/16) UPDATE commands, none for N = 0. -/
def feed (bytes : List Byte) : List Instr :=
  (List.range ((bytes.length + 15) / 16)).map fun j => updateOf (piece bytes j)

/-- ONESHOT: INIT, the complete blocks, FINAL with the rest and the length. -/
def oneShotProgram (seed : Seed) (bytes : List Byte) : List Instr :=
  .init seed ::
    ((List.range (bytes.length / 16)).map fun j => blockOf (piece bytes j)) ++
      [finalOf (bytes.drop (16 * (bytes.length / 16))) bytes.length]

/-- STREAM: INIT, FEED, DIGEST. -/
def streamProgram (seed : Seed) (bytes : List Byte) : List Instr :=
  .init seed :: feed bytes ++ [.digest]

/-! ## Lines -/

/-- A line of assembler (R57). Numbers are as written; the assembler checks their range. -/
inductive AsmLine where
  | nop
  | init (seed : Nat)
  | loadh (h1 h2 : Nat)
  | block (bytes : List Byte)
  | final (bytes : List Byte) (total : Nat)
  | update (bytes : List Byte)
  | digest
  | word (w : Cmd)
  | feed (bytes : List Byte)
  | oneShot (seed : Nat) (bytes : List Byte)
  | stream (seed : Nat) (bytes : List Byte)
  deriving DecidableEq, Repr

/-- A value the assembler gives only where the line's operands are in range. -/
def inRange (ok : Bool) (is : List Instr) : Option (List Cmd) :=
  if ok then some (is.map encode) else none

/-- The command words of a line, `none` where the assembler refuses it: a string of the wrong length
or a number out of range (R57 gives a range for INIT's seed only; that a number too large for its field is
refused everywhere is DESIGN CHOICE, log 13). Only `.word` can give a malformed word (R57), in a build with the streaming
module: the assembler takes no build, and gives UPDATE, DIGEST, FEED and STREAM their words also for one
without it, where they are malformed with cause 4 (R54) (DESIGN CHOICE, log 18). -/
def assembleLine : AsmLine → Option (List Cmd)
  | .nop => inRange true [.nop]
  | .init seed => inRange (seed < 2 ^ 32) [.init (BitVec.ofNat 32 seed)]
  | .loadh h1 h2 =>
    inRange (decide (h1 < 2 ^ 64 ∧ h2 < 2 ^ 64)) [.loadh (BitVec.ofNat 64 h1) (BitVec.ofNat 64 h2)]
  | .block bytes => inRange (bytes.length = 16) [blockOf bytes]
  | .final bytes total => inRange (decide (bytes.length ≤ 15 ∧ total < 2 ^ 64)) [finalOf bytes total]
  | .update bytes => inRange (bytes.length ≤ 16) [updateOf bytes]
  | .digest => inRange true [.digest]
  | .word w => some [w]
  | .feed bytes => inRange true (feed bytes)
  | .oneShot seed bytes =>
    inRange (decide (seed < 2 ^ 32 ∧ bytes.length < 2 ^ 64)) (oneShotProgram (BitVec.ofNat 32 seed) bytes)
  | .stream seed bytes => inRange (seed < 2 ^ 32) (streamProgram (BitVec.ofNat 32 seed) bytes)

/-! ## Text -/

/-- The value of a hex digit, of either case (DESIGN CHOICE, log 13). -/
def hexValue (c : Char) : Option Nat :=
  let n := c.toNat
  if 48 ≤ n ∧ n ≤ 57 then some (n - 48)
  else if 97 ≤ n ∧ n ≤ 102 then some (n - 87)
  else if 65 ≤ n ∧ n ≤ 70 then some (n - 55)
  else none

/-- The value of a digit string in a base, from the value of what stands before it. -/
def digitsValue (base : Nat) : List Char → Nat → Option Nat
  | [], v => some v
  | c :: cs, v =>
    match hexValue c with
    | some d => if d < base then digitsValue base cs (v * base + d) else none
    | none => none

/-- A decimal or `0x` hex number, with any number of digits, at least one (DESIGN CHOICE, log 13). -/
def parseNumber : List Char → Option Nat
  | [] => none
  | ['0', 'x'] => none
  | '0' :: 'x' :: cs => digitsValue 16 cs 0
  | cs => digitsValue 10 cs 0

/-- Hex digit pairs, optionally separated by spaces. Any number of spaces may stand between two pairs, and
also before the first and after the last pair, where R57 says nothing of them (DESIGN CHOICE, log 13). -/
def parsePairs : List Char → Option (List Byte)
  | [] => some []
  | [c] => if c = ' ' then some [] else none
  | a :: b :: cs =>
    if a = ' ' then parsePairs (b :: cs)
    else
      match hexValue a, hexValue b, parsePairs cs with
      | some h, some l, some bs => some (BitVec.ofNat 8 (16 * h + l) :: bs)
      | _, _, _ => none

/-- A byte string `x"..."`, byte 0 first. -/
def parseBytes : List Char → Option (List Byte)
  | 'x' :: '"' :: cs => if cs.getLast? = some '"' then parsePairs cs.dropLast else none
  | _ => none

/-- A space or a tab. -/
def isBlank (c : Char) : Bool := c == ' ' || c == '\t'

/-- The text without the blanks around it. -/
def trimBlanks (cs : List Char) : List Char :=
  ((cs.dropWhile isBlank).reverse.dropWhile isBlank).reverse

/-- The operands of a line, split at its commas. -/
def splitCommas : List Char → List (List Char)
  | [] => [[]]
  | c :: cs =>
    match splitCommas cs with
    | [] => [[c]]
    | p :: ps => if c = ',' then [] :: p :: ps else (c :: p) :: ps

/-- The operands of a line, without the blanks around them, none where nothing is written (DESIGN CHOICE,
log 13). -/
def operands (cs : List Char) : List (List Char) :=
  if trimBlanks cs = [] then [] else (splitCommas cs).map trimBlanks

/-- `0x` and exactly 64 hex digits. -/
def parseWord : List Char → Option Cmd
  | '0' :: 'x' :: cs =>
    if cs.length = 64 then
      match digitsValue 16 cs 0 with
      | some v => some (BitVec.ofNat 256 v)
      | none => none
    else none
  | _ => none

/-- The line a mnemonic and its operands write. -/
def parseCommand (name : String) (ops : List (List Char)) : Option AsmLine :=
  match name, ops with
  | "NOP", [] => some .nop
  | "INIT", [a] => (parseNumber a).map .init
  | "LOADH", [a, b] =>
    match parseNumber a, parseNumber b with
    | some x, some y => some (.loadh x y)
    | _, _ => none
  | "BLOCK", [a] => (parseBytes a).map .block
  | "FINAL", [a, b] =>
    match parseBytes a, parseNumber b with
    | some x, some y => some (.final x y)
    | _, _ => none
  | "UPDATE", [a] => (parseBytes a).map .update
  | "DIGEST", [] => some .digest
  | ".word", [a] => (parseWord a).map .word
  | "FEED", [a] => (parseBytes a).map .feed
  | "ONESHOT", [a, b] =>
    match parseNumber a, parseBytes b with
    | some x, some y => some (.oneShot x y)
    | _, _ => none
  | "STREAM", [a, b] =>
    match parseNumber a, parseBytes b with
    | some x, some y => some (.stream x y)
    | _, _ => none
  | _, _ => none

/-- The lines of a text, ended by newlines (DESIGN CHOICE, log 13). -/
def splitLines : List Char → List (List Char)
  | [] => [[]]
  | c :: cs =>
    match splitLines cs with
    | [] => [[c]]
    | l :: ls => if c = '\n' then [] :: l :: ls else (c :: l) :: ls

/-- The command words of one line of text; a blank or comment line has none (DESIGN CHOICE, log 13). -/
def assembleText (line : List Char) : Option (List Cmd) :=
  let text := trimBlanks (line.takeWhile (· != ';'))
  if text = [] then some []
  else
    let name := text.takeWhile fun c => !isBlank c
    (parseCommand (String.ofList name) (operands (text.drop name.length))).bind assembleLine

/-- The command words of a list of lines, `none` where the assembler refuses one of them (DESIGN CHOICE,
log 13). -/
def assembleLines : List (List Char) → Option (List Cmd)
  | [] => some []
  | l :: ls =>
    match assembleText l, assembleLines ls with
    | some ws, some rest => some (ws ++ rest)
    | _, _ => none

/-- The command words of a program text: one command a line, `;` starts a comment (R57). -/
def assemble (text : String) : Option (List Cmd) := assembleLines (splitLines text.toList)

end Sys2Proof.Machine
end

