-- ==== Sys2Proof/Machine/OneShot.lean ====
section
/-! DEFINITION. The one-shot digest of a byte sequence (41_streaming_hasher.md R84), the reference the
laws of the stream speak of. -/

namespace Sys2Proof.Machine

/-- Byte `i` of a byte sequence. -/
def seqByte (b : List Byte) (i : Nat) : Byte := b[i]?.getD 0

/-- The pair `h` mixed, in order, with the first `n` 16-byte blocks of `b` (R84). -/
def mixBlocks (b : List Byte) : Nat → Word × Word → Word × Word
  | 0, h => h
  | j + 1, h =>
    let h := mixBlocks b j h
    mixBlock h.1 h.2 (le64 (seqByte b) (16 * j)) (le64 (seqByte b) (16 * j + 8))

/-- The trailing `N mod 16` bytes of `b`, then zeros (R84). -/
def seqTail (b : List Byte) : Vector Byte 15 :=
  Vector.ofFn fun i =>
    if i.1 < b.length % 16 then seqByte b (b.length - b.length % 16 + i.1) else 0

/-- The one-shot digest of `b` under `seed` (R84). -/
def oneShot (seed : Seed) (b : List Byte) : Word × Word :=
  let h := mixBlocks b (b.length / 16) (seedWord seed, seedWord seed)
  finalize h.1 h.2 (seqTail b) (BitVec.ofNat 4 b.length) (BitVec.ofNat 64 b.length)

end Sys2Proof.Machine
end

