-- ==== Sys2Proof/Machine/Ports.lean ====
section
/-! DEFINITION. The output ports and the observation of a run (10_state.md R24, R25;
70_reset_and_hazards.md R109, R114). -/

namespace Sys2Proof.Machine

/-- The output ports of 10_state.md R25. -/
structure Outputs where
  h1_o : Word
  h2_o : Word
  d1_o : Word
  d2_o : Word
  digest_o : BitVec 128
  total_o : Word
  status_o : BitVec 16
  cmd_ready : Bool
  deriving DecidableEq, Repr

/-- TOTAL as total_o shows it: 0 when HAS_STREAM = 0 (R23, R25). -/
def State.totalShown (s : State) : Word :=
  match s.stream with
  | some st => st.total
  | none => 0

/-- The outputs in a cycle where `cmd_ready = 1`: a copy of the registers (R25, R109). -/
def readyOutputs (s : State) : Outputs :=
  { h1_o := s.h1, h2_o := s.h2, d1_o := s.d1, d2_o := s.d2, digest_o := s.d1 ++ s.d2,
    total_o := s.totalShown, status_o := statusWord (statusFields s) false, cmd_ready := true }

/-- The outputs in a cycle where `cmd_ready = 0`: every port but cmd_ready and BUSY is a free value
of that cycle (R109; log 6). -/
def busyOutputs (cycle : Nat) : Outputs :=
  { h1_o := Config.busyH1 cycle, h2_o := Config.busyH2 cycle, d1_o := Config.busyD1 cycle,
    d2_o := Config.busyD2 cycle, digest_o := Config.busyDigest cycle, total_o := Config.busyTotal cycle,
    status_o := statusWord (Config.busyStatus cycle) true, cmd_ready := false }

/-- What the host reads in the cycle before the next edge. Reading changes nothing (20_memory.md R43). -/
def State.outputs (s : State) : Outputs :=
  if s.ready then readyOutputs s else busyOutputs s.cycle

/-- The observation of a run (70_reset_and_hazards.md R114). -/
structure Observation where
  h1 : Word
  h2 : Word
  d1 : Word
  d2 : Word
  err : Bool
  ecause : BitVec 4
  bufcnt : BitVec 4
  tailcnt : BitVec 4
  total : Word
  deriving DecidableEq, Repr

/-- The tuple R114 names, read from the outputs `o` of a cycle. -/
def Outputs.observation (o : Outputs) : Observation :=
  { h1 := o.h1_o, h2 := o.h2_o, d1 := o.d1_o, d2 := o.d2_o, err := o.status_o[1],
    ecause := o.status_o.extractLsb' 4 4, bufcnt := o.status_o.extractLsb' 8 4,
    tailcnt := o.status_o.extractLsb' 12 4, total := o.total_o }

end Sys2Proof.Machine
end

