-- ==== Sys2Proof/Safety.lean ====
section
/-! DEFINITION. What counts as a safe run, and the notions the statements use: the bytes a state
holds and a command feeds, the invariants, what a host can see, and runs of edges. -/

namespace Sys2Proof.Machine

/-! ## Bytes held and fed -/

/-- The first `n` bytes of `c`. -/
def firstBytes (c : Nat → Byte) (n : Nat) : List Byte := (List.range n).map c

/-- The chunk of an UPDATE (20_memory.md R36). -/
def chunkBytes (len : BitVec 5) (chunk : Data) : List Byte := firstBytes (lane chunk) len.toNat

/-- The pending bytes BUF[0..BUFCNT-1]. -/
def StreamRegs.pending (st : StreamRegs) : List Byte := firstBytes (byteAt st.buf) st.bufcnt.toNat

/-- The window TAIL[0..TAILCNT-1]. -/
def StreamRegs.window (st : StreamRegs) : List Byte := firstBytes (byteAt st.tail) st.tailcnt.toNat

/-- The last `k` elements of a list. -/
def lastOf {α : Type} (k : Nat) (l : List α) : List α := l.drop (l.length - k)

/-- The bytes fed since the last INIT or reset, after a command, from those fed before it
(10_state.md R29). -/
def fedAfter (fed : List Byte) : Instr → List Byte
  | .init _ => []
  | .update len chunk => if len.toNat ≤ 16 then fed ++ chunkBytes len chunk else fed
  | .nop | .block _ _ | .final _ _ _ | .loadh _ _ | .digest => fed

/-- The bytes the UPDATEs among a sequence of words feed, in order. -/
def fedBy : List Cmd → List Byte
  | [] => []
  | w :: ws =>
    match decode true w with
    | .ok (.update len chunk) => chunkBytes len chunk ++ fedBy ws
    | _ => fedBy ws

/-! ## Invariants -/

/-- No malformed command since reset: the premise of a claim about a command sequence
(60_exceptions.md R94). -/
def State.clean (s : State) : Bool := !s.err

/-- ECAUSE is a code of 60_exceptions.md R90 and is 0 exactly when ERR is (10_state.md R17, R18). -/
def ErrCoherent (s : State) : Prop := s.ecause.toNat ≤ 4 ∧ (s.err = false ↔ s.ecause = 0)

/-- What 10_state.md R29 says of the stream registers without naming the bytes fed: BUFCNT is TOTAL
mod 16, the window is full or holds every byte fed, and the pending bytes are the window's last. -/
def StreamCoherent (st : StreamRegs) : Prop :=
  st.bufcnt.toNat = st.total.toNat % 16 ∧
    (st.tailcnt.toNat = 15 ∨ st.tailcnt.toNat = st.total.toNat) ∧
    st.pending = lastOf st.bufcnt.toNat st.window

/-- The invariant every step keeps. -/
def StateInv (s : State) : Prop := ErrCoherent s ∧ ∀ st, s.stream = some st → StreamCoherent st

/-- 10_state.md R29: the stream registers hold the bytes `fed` since the last reset or INIT. -/
def StreamTracks (fed : List Byte) (st : StreamRegs) : Prop :=
  st.total = BitVec.ofNat 64 fed.length ∧
    st.bufcnt.toNat = fed.length % 16 ∧ st.pending = lastOf (fed.length % 16) fed ∧
    st.tailcnt.toNat = min fed.length 15 ∧ st.window = lastOf 15 fed

/-- 10_state.md R29, last part: the pair is the seed pair mixed, in order, with every complete block. -/
def AccTracks (seed : Seed) (fed : List Byte) (s : State) : Prop :=
  (s.h1, s.h2) = mixBlocks fed (fed.length / 16) (seedWord seed, seedWord seed)

/-! ## What no port shows (10_state.md R31) -/

/-- The stream registers with the hidden bytes, BUF[i] for i >= BUFCNT and TAIL[i] for i >= TAILCNT,
blotted out. -/
def StreamRegs.blot (st : StreamRegs) : StreamRegs :=
  { st with
    buf := Vector.ofFn fun i => if i.1 < st.bufcnt.toNat then st.buf[i] else 0,
    tail := Vector.ofFn fun i => if i.1 < st.tailcnt.toNat then st.tail[i] else 0 }

/-- Two states that differ at most in hidden bytes. -/
def HiddenEq (s t : State) : Prop :=
  { s with stream := s.stream.map StreamRegs.blot } = { t with stream := t.stream.map StreamRegs.blot }

/-! ## Runs of edges -/

/-- The latency of a command word in a build (70_reset_and_hazards.md R108). -/
def latencyOf (b : Build) (w : Cmd) : Nat :=
  match decode b.hasStream w with
  | .ok .nop => b.lat.nop
  | .ok (.init _) => b.lat.init
  | .ok (.block _ _) => b.lat.block
  | .ok (.final _ _ _) => b.lat.final
  | .ok (.loadh _ _) => b.lat.loadh
  | .ok (.update _ _) => b.lat.update
  | .ok .digest => b.lat.digest
  | .error _ => b.lat.bad

/-- The host does not assert `rst` at the next `k` edges. -/
def State.noReset (s : State) (k : Nat) : Prop := ∀ p ∈ s.pins.take k, p.rst = false

/-- The command words accepted at the next `k` edges, in order. -/
def acceptedIn : Nat → State → List Cmd
  | 0, _ => []
  | k + 1, s =>
    match step s with
    | .next t => if s.accepts then s.headPins.cmd :: acceptedIn k t else acceptedIn k t
    | _ => []

/-- A state with the clock left out: no latency running, no pins, no cycle count
(70_reset_and_hazards.md R112). -/
def State.timeless (s : State) : State := { s with busy := 0, pins := [], cycle := 0 }

/-! ## Which commands write what (10_state.md R13, the column "written by") -/

/-- INIT, LOADH, BLOCK and UPDATE write H1 and H2. -/
def writesAcc : Instr → Bool
  | .init _ | .loadh _ _ | .block _ _ | .update _ _ => true
  | .nop | .final _ _ _ | .digest => false

/-- FINAL and DIGEST write D1 and D2. -/
def writesDigest : Instr → Bool
  | .final _ _ _ | .digest => true
  | .nop | .init _ | .block _ _ | .loadh _ _ | .update _ _ => false

/-- INIT and UPDATE write the stream registers. -/
def writesStream : Instr → Bool
  | .init _ | .update _ _ => true
  | .nop | .block _ _ | .final _ _ _ | .loadh _ _ | .digest => false

/-- NOP, FINAL, DIGEST and UPDATE: the commands that may stand between a stream's INIT and its DIGEST
(41_streaming_hasher.md R85). -/
def keepsStream : Instr → Bool
  | .nop | .final _ _ _ | .update _ _ | .digest => true
  | .init _ | .block _ _ | .loadh _ _ => false

/-- A word that decodes to such a command. -/
def streamWord (w : Cmd) : Bool :=
  match decode true w with
  | .ok i => keepsStream i
  | .error _ => false

/-- A word that writes the digest latch of a build. -/
def digestWord (hasStream : Bool) (w : Cmd) : Bool :=
  match decode hasStream w with
  | .ok i => writesDigest i
  | .error _ => false

end Sys2Proof.Machine
end

