-- ==== Sys2Proof/Certificates/Slice0/Obligations.lean ====
section
/-! DEFINITION. The statements about hash_block_mixer, each from the rule of spec/ it names. Every
statement is about every build: HAS_STREAM and the latencies are part of the state it quantifies over. -/

open Sys2Proof Sys2Proof.Machine

/-! ## Reset -/

/-- 10_state.md R30: every register after reset, in every build; BUSY is 0 then, and reads 1 while
reset is asserted. -/
def Obligations.ResetLeavesEveryRegisterZero : Prop :=
  (∀ b : Build,
    (State.resetOf b).h1 = 0x0000000000000000 ∧ (State.resetOf b).h2 = 0x0000000000000000 ∧
    (State.resetOf b).d1 = 0x0000000000000000 ∧ (State.resetOf b).d2 = 0x0000000000000000 ∧
    (State.resetOf b).err = false ∧ (State.resetOf b).ecause = 0 ∧
    (State.resetOf b).busyNow = false ∧ (State.resetOf b).build = b ∧
    ∀ st, (State.resetOf b).stream = some st →
      (∀ i, i < 16 → byteAt st.buf i = 0x00) ∧ st.bufcnt = 0 ∧
      (∀ i, i < 15 → byteAt st.tail i = 0x00) ∧ st.tailcnt = 0 ∧ st.total = 0) ∧
  ∀ s : State, s.headPins.rst = true → s.outputs.status_o[0] = true

/-- 70_reset_and_hazards.md R104: an edge with `rst = 1` gives every register its reset value, whatever
is in flight and whatever the host offers, and accepts nothing. That the index stays is the model's
reading of 10_state.md R14 (DEDUCED, log 5). -/
def Obligations.ResetEdgeOverridesEverything : Prop :=
  ∀ (s : State) (p : Pins) (ps : List Pins), s.pins = p :: ps → p.rst = true →
    step s = .next { State.resetOf s.build with pins := ps, index := s.index, cycle := s.cycle + 1 }

/-- 70_reset_and_hazards.md R106: after reset the state equals the state after `INIT 0` except that D1,
D2, ERR and ECAUSE are 0. -/
def Obligations.ResetIsInitZeroWithLatchAndErrorCleared : Prop :=
  ∀ (s u : State), exec (.init 0) s = .next u →
    { u with d1 := 0, d2 := 0, err := false, ecause := 0, busy := 0 } =
      { State.resetOf s.build with pins := s.pins, index := s.index, cycle := s.cycle }

/-! ## The pure functions -/

/-- 00_scope.md R9: bit i of `rotl64(x, r)` is bit (i - r) mod 64 of x. -/
def Obligations.RotationMovesBits : Prop :=
  ∀ (x : Word) (r i : Nat), 1 ≤ r → r ≤ 63 → i < 64 →
    rotl64 x r = (x <<< r ||| x >>> (64 - r)) ∧
    (rotl64 x r).getLsbD i = x.getLsbD ((i + 64 - r) % 64)

/-- 40_block_mixer.md R60, R61, R63: the key mixes, the block mix in its sequential order and fmix64,
written with the constants of R59 and core's rotation, with the rules' examples. The values of C1 and
C2 are the spec's own from general knowledge (R59; PRESUMED, log 2). -/
def Obligations.MixerFunctionsAreTheStatedOnes : Prop :=
  (∀ k : Word, mixK1 k = (k * 0x87c37b91114253d5).rotateLeft 31 * 0x4cf5ad432745937f) ∧
  (∀ k : Word, mixK2 k = (k * 0x4cf5ad432745937f).rotateLeft 33 * 0x87c37b91114253d5) ∧
  mixK1 1 = 0x34e09d0b6bdefe38 ∧ mixK2 1 = 0x4e26f5539bb7c37e ∧
  (∀ h1 h2 k1 k2 : Word,
    (mixBlock h1 h2 k1 k2).1 = ((h1 ^^^ mixK1 k1).rotateLeft 27 + h2) * 5 + 0x52dce729 ∧
    (mixBlock h1 h2 k1 k2).2 =
      ((h2 ^^^ mixK2 k2).rotateLeft 31 + (mixBlock h1 h2 k1 k2).1) * 5 + 0x38495ab5) ∧
  mixBlock 0 0 0 0 = (0x0000000052dce729, 0x00000001d699de82) ∧
  (∀ x : Word, ∃ y z : Word,
    y = (x ^^^ x >>> 33) * 0xff51afd7ed558ccd ∧ z = (y ^^^ y >>> 33) * 0xc4ceb9fe1a85ec53 ∧
    fmix64 x = z ^^^ z >>> 33) ∧
  fmix64 0 = 0 ∧ fmix64 1 = 0xb456bcfc34c2cb2c

/-- 40_block_mixer.md R66: the key mixes, fmix64 and, for fixed keys, the block mix are bijections, with
the rule's inverse of the block mix. -/
def Obligations.MixerFunctionsAreBijections : Prop :=
  Function.Bijective mixK1 ∧ Function.Bijective mixK2 ∧ Function.Bijective fmix64 ∧
  (∀ c ∈ [mulC1, mulC2, mulF1, mulF2], c.toNat % 2 = 1 ∧ Function.Bijective fun x : Word => x * c) ∧
  (∀ r : Nat, 1 ≤ r → r ≤ 63 → Function.Bijective fun x : Word => rotl64 x r) ∧
  (Function.Bijective fun x : Word => x ^^^ x >>> 33) ∧
  (0xcccccccccccccccd : Word) * 5 = 1 ∧
  ∀ k1 k2 : Word,
    (Function.Bijective fun p : Word × Word => mixBlock p.1 p.2 k1 k2) ∧
    ∀ h1 h2 a b : Word, mixBlock h1 h2 k1 k2 = (a, b) →
      h2 = rotl64 ((b - addN2) * 0xcccccccccccccccd - a) (64 - 31) ^^^ mixK2 k2 ∧
      h1 = rotl64 ((a - addN1) * 0xcccccccccccccccd - h2) (64 - 27) ^^^ mixK1 k1

/-- 40_block_mixer.md R62: byte i contributes if and only if i < tl; the keys are the little-endian words
of the tail with the other bytes read as 0, and `|`, `^` and `+` give the same keys; the k2 fold happens
from 9 bytes on, the k1 fold from 1. -/
def Obligations.TailSwitchIsInclusive : Prop :=
  (∀ (t : Vector Byte 15) (tl : BitVec 4),
    tailKeys t tl =
      (le64 (fun i => if i < tl.toNat then byteAt t i else 0) 0,
        le64 (fun i => if i < tl.toNat then byteAt t i else 0) 8) ∧
    (tailKeys t tl).1 =
      (List.range 8).foldl
        (fun k i => k ^^^ (if i < tl.toNat then (byteAt t i).zeroExtend 64 <<< (8 * i) else 0)) 0 ∧
    (tailKeys t tl).2 =
      (List.range 7).foldl
        (fun k i => k ^^^ (if 8 + i < tl.toNat then (byteAt t (8 + i)).zeroExtend 64 <<< (8 * i) else 0)) 0 ∧
    (tailKeys t tl).1 =
      (List.range 8).foldl
        (fun k i => k + (if i < tl.toNat then (byteAt t i).zeroExtend 64 <<< (8 * i) else 0)) 0 ∧
    (tailKeys t tl).2 =
      (List.range 7).foldl
        (fun k i => k + (if 8 + i < tl.toNat then (byteAt t (8 + i)).zeroExtend 64 <<< (8 * i) else 0)) 0) ∧
  (∀ (h1 h2 : Word) (t : Vector Byte 15) (tl : BitVec 4) (total : Word),
    finalize h1 h2 t tl total =
      finishMix (if tl.toNat ≤ 0 then h1 else h1 ^^^ mixK1 (tailKeys t tl).1)
        (if tl.toNat ≤ 8 then h2 else h2 ^^^ mixK2 (tailKeys t tl).2) total) ∧
  tailKeys (Vector.ofFn fun i => BitVec.ofNat 8 (i.1 + 1)) 9 = (0x0807060504030201, 0x0000000000000009)

/-- 40_block_mixer.md R64: finalization, step by step, with the rule's example. -/
def Obligations.FinalizationIsTheStatedOne : Prop :=
  (∀ (h1 h2 : Word) (t : Vector Byte 15) (tl : BitVec 4) (total : Word),
    ∃ g2 g1 x1 x2 y1 y2 : Word,
      g2 = (if 9 ≤ tl.toNat then h2 ^^^ mixK2 (tailKeys t tl).2 else h2) ∧
      g1 = (if 1 ≤ tl.toNat then h1 ^^^ mixK1 (tailKeys t tl).1 else h1) ∧
      x1 = (g1 ^^^ total) + (g2 ^^^ total) ∧ x2 = (g2 ^^^ total) + x1 ∧
      y1 = fmix64 x1 + fmix64 x2 ∧ y2 = fmix64 x2 + y1 ∧
      finalize h1 h2 t tl total = (y1, y2)) ∧
  finalize 0 0 (Vector.ofFn fun i => BitVec.ofNat 8 (i.1 + 1)) 3 3 =
    (0x1a643eef0e1337a9, 0x494e4a403c239a65)

/-- 40_block_mixer.md R65: the gates of the tail folds cannot be observed. -/
def Obligations.TailFoldGatesAreUnobservable : Prop :=
  mixK1 0 = 0 ∧ mixK2 0 = 0 ∧
  ∀ (h1 h2 : Word) (t : Vector Byte 15) (tl : BitVec 4) (total : Word),
    (tl.toNat < 9 → (tailKeys t tl).2 = 0) ∧ (tl = 0 → (tailKeys t tl).1 = 0) ∧
    finalize h1 h2 t tl total =
      finishMix (h1 ^^^ mixK1 (tailKeys t tl).1) (h2 ^^^ mixK2 (tailKeys t tl).2) total

/-- 20_memory.md R34: the key words read from 16 lanes little-endian are DATA[63:0] and DATA[127:64]. -/
def Obligations.KeyWordsAreDataSlices : Prop :=
  ∀ d : Data, le64 (lane d) 0 = d.extractLsb' 0 64 ∧ le64 (lane d) 8 = d.extractLsb' 64 64

/-- 40_block_mixer.md R67: the digest of the empty input. -/
def Obligations.EmptyInputDigest : Prop :=
  (∀ (seed : Seed) (t : Vector Byte 15),
    oneShot seed [] = finalize (seed.zeroExtend 64) (seed.zeroExtend 64) t 0 0) ∧
  oneShot 0 [] = (0, 0) ∧ oneShot 1 [] = (0x4610abe56eff5cb5, 0x51622daa78f83583)

/-- 41_streaming_hasher.md R87: "hello world" under the seeds 0 and 1. -/
def Obligations.SeedSensitivity : Prop :=
  oneShot 0 [0x68, 0x65, 0x6c, 0x6c, 0x6f, 0x20, 0x77, 0x6f, 0x72, 0x6c, 0x64] =
    (0x533f6046eb7f610e, 0xab97467d60eb63b1) ∧
  oneShot 1 [0x68, 0x65, 0x6c, 0x6c, 0x6f, 0x20, 0x77, 0x6f, 0x72, 0x6c, 0x64] =
    (0xd18e465a6a1e2de0, 0xa83512a45e28fd55) ∧
  ∃ seed seed' : Seed, ∃ b : List Byte, b ≠ [] ∧ oneShot seed b ≠ oneShot seed' b

/-! ## Encoding -/

/-- Decode and encode agree, for every legal command of every build, at every operand value: decoding
gives the command back, but for the chunk lanes of UPDATE from LEN on, which it ignores and the encoder
writes as 0 (30_encoding.md R50, R51); and accepting the encoded word runs the command. -/
def Obligations.DecodeEncodeRoundTrip : Prop :=
  (∀ (hasStream : Bool) (i : Instr), i.wf = true → i.present hasStream = true →
    decode hasStream (encode i) = .ok i.dropIgnored) ∧
  (∀ i : Instr, i.dropIgnored = i ↔
    ∀ (len : BitVec 5) (chunk : Data) (j : Nat), i = .update len chunk → len.toNat ≤ j → j < 16 →
      lane chunk j = 0) ∧
  ∀ (s : State) (i : Instr), i.wf = true → i.present s.hasStream = true →
    accept (encode i) s = exec i s.count

/-- A decoded command is well formed and present in the build. -/
def Obligations.DecodedCommandIsWellFormed : Prop :=
  ∀ (hasStream : Bool) (w : Cmd) (i : Instr), decode hasStream w = .ok i →
    i.wf = true ∧ i.present hasStream = true

/-- Words written out from 30_encoding.md R48 and R52 decode to the commands they stand for. -/
def Obligations.WordsOfTheSpecDecode : Prop :=
  decode true 0x0000000000000000000000000000000000000000000000000000000000000000 = .ok .nop ∧
  decode true 0x0000000000000000000000000000000000000000123456780000000000000001 =
    .ok (.init 0x12345678) ∧
  decode true 0x0000000000000000100f0e0d0c0b0a0908070605040302010000000000000002 =
    .ok (.block 0x0807060504030201 0x100f0e0d0c0b0a09) ∧
  decode true 0x000000000000002b0000000000676f6420797a616c2065680000000000000b03 =
    .ok (.final 11 0x00000000676f6420797a616c206568 43) ∧
  decode true 0x0000000000000000000000000000000200000000000000010000000000000004 =
    .ok (.loadh 1 2) ∧
  decode true 0x000000000000000000000000000000000000006f6c6c65680000000000000505 =
    .ok (.update 5 0x6f6c6c6568) ∧
  decode true 0x0000000000000000000000000000000000000000000000000000000000000006 = .ok .digest ∧
  decode true 0x0000000000000000000000000000000000000000000000000000000000000007 = .error .badOp ∧
  decode false 0x0000000000000000000000000000000000000000000000000000000000001405 = .error .noStream

/-- 30_encoding.md R53: the decoder, total on all command words. -/
def Obligations.DecoderReadsTheFields : Prop :=
  ∀ (hasStream : Bool) (w : Cmd),
    (w.extractLsb' 0 4 = 0x0 → decode hasStream w = .ok .nop) ∧
    (w.extractLsb' 0 4 = 0x1 → decode hasStream w = .ok (.init (w.extractLsb' 64 32))) ∧
    (w.extractLsb' 0 4 = 0x2 →
      decode hasStream w = .ok (.block (w.extractLsb' 64 64) (w.extractLsb' 128 64))) ∧
    (w.extractLsb' 0 4 = 0x3 → w[12] = false →
      decode hasStream w =
        .ok (.final (w.extractLsb' 8 5) (w.extractLsb' 64 120) (w.extractLsb' 192 64))) ∧
    (w.extractLsb' 0 4 = 0x3 → w[12] = true → decode hasStream w = .error .badTailLen) ∧
    (w.extractLsb' 0 4 = 0x4 →
      decode hasStream w = .ok (.loadh (w.extractLsb' 64 64) (w.extractLsb' 128 64))) ∧
    (w.extractLsb' 0 4 = 0x5 →
      decode hasStream w =
        if hasStream = false then .error .noStream
        else if (w.extractLsb' 8 5).toNat ≤ 16 then
          .ok (.update (w.extractLsb' 8 5) (w.extractLsb' 64 128))
        else .error .badChunkLen) ∧
    (w.extractLsb' 0 4 = 0x6 →
      decode hasStream w = if hasStream = false then .error .noStream else .ok .digest) ∧
    (7 ≤ (w.extractLsb' 0 4).toNat → decode hasStream w = .error .badOp)

/-- 30_encoding.md R50: a word that differs from another only in CMD[7:4] and CMD[63:13], or in fields
its command ignores, has the same effect; the encoder writes those bits, and all that 30_encoding.md R51
lists as ignored, UPDATE's lanes from LEN on among it, as 0; no ignored bit makes a command malformed. -/
def Obligations.IgnoredBitsHaveNoEffect : Prop :=
  (∀ i : Instr, (encode i).extractLsb' 4 4 = 0 ∧ (encode i).extractLsb' 13 51 = 0 ∧
    (cmdOp (encode i) ≠ 3 → cmdTot (encode i) = 0 ∧ (cmdOp (encode i) ≠ 5 → cmdLen (encode i) = 0)) ∧
    (cmdOp (encode i) = 0 ∨ cmdOp (encode i) = 6 → cmdData (encode i) = 0) ∧
    (cmdOp (encode i) = 1 → (cmdData (encode i)).extractLsb' 32 96 = 0) ∧
    (cmdOp (encode i) = 3 → (cmdData (encode i)).extractLsb' 120 8 = 0) ∧
    (cmdOp (encode i) = 5 → ∀ j, (cmdLen (encode i)).toNat ≤ j → j < 16 →
      lane (cmdData (encode i)) j = 0)) ∧
  (∀ (hasStream : Bool) (w w' : Cmd) (m : Malformed), cmdOp w = cmdOp w' →
    (cmdOp w = 3 ∨ cmdOp w = 5 → cmdLen w = cmdLen w') →
    (decode hasStream w = .error m ↔ decode hasStream w' = .error m)) ∧
  ∀ (s : State) (w w' : Cmd), cmdOp w = cmdOp w' →
    (cmdLen w = cmdLen w' → cmdData w = cmdData w' → cmdTot w = cmdTot w' → accept w s = accept w' s) ∧
    (cmdOp w = 0 ∨ cmdOp w = 6 → accept w s = accept w' s) ∧
    (cmdOp w = 1 → (cmdData w).extractLsb' 0 32 = (cmdData w').extractLsb' 0 32 →
      accept w s = accept w' s) ∧
    (cmdOp w = 2 ∨ cmdOp w = 4 → cmdData w = cmdData w' → accept w s = accept w' s) ∧
    (cmdOp w = 3 → cmdLen w = cmdLen w' → cmdTot w = cmdTot w' →
      (∀ i, i < (cmdLen w).toNat % 16 → lane (cmdData w) i = lane (cmdData w') i) →
      accept w s = accept w' s) ∧
    (cmdOp w = 5 → cmdLen w = cmdLen w' →
      (∀ i, i < (cmdLen w).toNat → lane (cmdData w) i = lane (cmdData w') i) →
      accept w s = accept w' s)

/-- 30_encoding.md R54 and 60_exceptions.md R91: exactly these words are malformed, each with one
cause, and each sets ERR. -/
def Obligations.ExactlyTheseWordsAreMalformed : Prop :=
  (∀ (hasStream : Bool) (w : Cmd),
    (decode hasStream w = .error .badOp ↔ 7 ≤ (cmdOp w).toNat) ∧
    (decode hasStream w = .error .badTailLen ↔ cmdOp w = 3 ∧ (cmdLen w)[4] = true) ∧
    (decode hasStream w = .error .badChunkLen ↔
      cmdOp w = 5 ∧ 17 ≤ (cmdLen w).toNat ∧ hasStream = true) ∧
    (decode hasStream w = .error .noStream ↔ (cmdOp w = 5 ∨ cmdOp w = 6) ∧ hasStream = false)) ∧
  causeCode .badOp = 1 ∧ causeCode .badTailLen = 2 ∧ causeCode .badChunkLen = 3 ∧
  causeCode .noStream = 4 ∧
  ∀ (s : State) (w : Cmd) (m : Malformed), decode s.hasStream w = .error m →
    ∃ t, accept w s = .next t ∧ t.err = true

/-- 30_encoding.md R58: a word selects the opcode-table row of the command it decodes to and no other; a
malformed word selects none, and a row that requires HAS_STREAM = 1 is malformed with cause 4 without it. -/
def Obligations.TableRowsMatchTheDecoder : Prop :=
  (∀ (hasStream : Bool) (w : Cmd),
    (opTable.filter fun r => rowSelects hasStream r w).map (·.mnemonic) =
      match decode hasStream w with
      | .ok i => [mnemonic i]
      | .error _ => []) ∧
  ∀ r ∈ opTable, r.needsStream = true →
    ∀ w : Cmd, w.extractLsb' 0 16 &&& r.mask = r.pattern → decode false w = .error .noStream

/-! ## The commands -/

/-- 40_block_mixer.md R69: NOP leaves every register unchanged; it takes its place in the command order
and makes BUSY 1 for LAT_NOP - 1 cycles. -/
def Obligations.NopOnlyTakesItsPlace : Prop :=
  (∀ s : State, exec .nop s = .next { s with busy := s.lat.nop - 1 }) ∧
  ∀ (s : State) (w : Cmd), cmdOp w = 0 →
    accept w s = .next { s with busy := s.lat.nop - 1, index := s.index + 1 }

/-- 40_block_mixer.md R70: INIT sets both halves to the zero-extended seed and clears the stream
registers; D1, D2, ERR and ECAUSE keep their values, and so does all else. -/
def Obligations.InitLoadsTheSeed : Prop :=
  (∀ (s : State) (seed : Seed),
    exec (.init seed) s = .next { s with
      h1 := 0#32 ++ seed, h2 := 0#32 ++ seed,
      stream := s.stream.map fun _ =>
        { buf := Vector.replicate 16 0x00, bufcnt := 0, tail := Vector.replicate 15 0x00, tailcnt := 0,
          total := 0 },
      busy := s.lat.init - 1 }) ∧
  ∀ (hasStream : Bool) (w : Cmd), cmdOp w = 1 → decode hasStream w = .ok (.init (w.extractLsb' 64 32))

/-- 40_block_mixer.md R71: LOADH writes H1 and H2 from DATA and nothing else; the example. -/
def Obligations.LoadhWritesThePair : Prop :=
  (∀ (s : State) (a b : Word),
    exec (.loadh a b) s = .next { s with h1 := a, h2 := b, busy := s.lat.loadh - 1 }) ∧
  (∀ (hasStream : Bool) (w : Cmd), cmdOp w = 4 →
    decode hasStream w = .ok (.loadh (w.extractLsb' 64 64) (w.extractLsb' 128 64))) ∧
  mixBlock 1 1 0 0 = (0x000000007adce72e, 0x000000051e99de9b)

/-- 40_block_mixer.md R72: BLOCK mixes the little-endian key words of its 16 bytes into the pair and
writes nothing else, the stream registers among it. -/
def Obligations.BlockMixesThePair : Prop :=
  (∀ (s : State) (k1 k2 : Word),
    exec (.block k1 k2) s = .next { s with
      h1 := (mixBlock s.h1 s.h2 k1 k2).1, h2 := (mixBlock s.h1 s.h2 k1 k2).2,
      busy := s.lat.block - 1 }) ∧
  (∀ (hasStream : Bool) (w : Cmd), cmdOp w = 2 →
    decode hasStream w = .ok (.block (le64 (lane (cmdData w)) 0) (le64 (lane (cmdData w)) 8))) ∧
  mixBlock 0 0 0x0807060504030201 0x100f0e0d0c0b0a09 = (0x178124fd7f939672, 0x561de10afd457487)

/-- 40_block_mixer.md R73: FINAL with LEN[4] = 0 latches the finalization of the pair and writes nothing
else, whatever tl and L are; with LEN[4] = 1 it is CmdError 2. -/
def Obligations.FinalLatchesTheDigest : Prop :=
  (∀ (s : State) (len : BitVec 5) (tail : BitVec 120) (total : Word), len[4] = false →
    exec (.final len tail total) s = .next { s with
      d1 := (finalize s.h1 s.h2 (Vector.ofFn fun i => tail.extractLsb' (8 * i.1) 8)
        (BitVec.ofNat 4 len.toNat) total).1,
      d2 := (finalize s.h1 s.h2 (Vector.ofFn fun i => tail.extractLsb' (8 * i.1) 8)
        (BitVec.ofNat 4 len.toNat) total).2,
      busy := s.lat.final - 1 }) ∧
  (∀ (s : State) (len : BitVec 5) (tail : BitVec 120) (total : Word), len[4] = true →
    exec (.final len tail total) s = .next { s with
      err := true, ecause := if s.err then s.ecause else 2, busy := s.lat.bad - 1 }) ∧
  ∀ (hasStream : Bool) (w : Cmd), cmdOp w = 3 →
    decode hasStream w =
      if w[12] then .error .badTailLen
      else .ok (.final (w.extractLsb' 8 5) (w.extractLsb' 64 120) (w.extractLsb' 192 64))

/-- 41_streaming_hasher.md R75: a legal UPDATE of n bytes from pending count b completes: it mixes
(b + n) div 16 blocks of the pending bytes followed by the chunk, keeps the rest pending with BUFCNT =
(b + n) mod 16, adds n to TOTAL modulo 2^64, makes the window the last 15 of its bytes followed by the
chunk, and writes nothing else. -/
def Obligations.UpdateAbsorbsTheChunk : Prop :=
  ∀ (s : State) (st : StreamRegs) (len : BitVec 5) (chunk : Data), s.stream = some st → len.toNat ≤ 16 →
    ∃ st' : StreamRegs,
      exec (.update len chunk) s = .next { s with
        h1 := (mixBlocks (st.pending ++ chunkBytes len chunk) ((st.bufcnt.toNat + len.toNat) / 16)
          (s.h1, s.h2)).1,
        h2 := (mixBlocks (st.pending ++ chunkBytes len chunk) ((st.bufcnt.toNat + len.toNat) / 16)
          (s.h1, s.h2)).2,
        stream := some st', busy := s.lat.update - 1 } ∧
      st'.bufcnt.toNat = (st.bufcnt.toNat + len.toNat) % 16 ∧
      st'.pending =
        (st.pending ++ chunkBytes len chunk).drop (16 * ((st.bufcnt.toNat + len.toNat) / 16)) ∧
      st'.total = st.total + len.zeroExtend 64 ∧
      st'.tailcnt.toNat = min 15 (st.tailcnt.toNat + len.toNat) ∧
      st'.window = lastOf 15 (st.window ++ chunkBytes len chunk)

/-- 41_streaming_hasher.md R79: the raw bytes of BUF after a legal UPDATE, also those no port shows, which
10_state.md R31 leaves open and the model keeps as the pseudocode does (log 7). A byte keeps its old value
unless the chunk's bytes were copied to it: step 1 and step 4 write from the chunk, step 2 appends it. -/
def Obligations.UpdateKeepsUnwrittenBufferBytes : Prop :=
  ∀ (s t : State) (st : StreamRegs) (len : BitVec 5) (chunk : Data) (i : Nat), s.stream = some st →
    len.toNat ≤ 16 → i < 16 → exec (.update len chunk) s = .next t →
    ∃ st', t.stream = some st' ∧
      (st.bufcnt.toNat + len.toNat < 16 →
        byteAt st'.buf i =
          if st.bufcnt.toNat ≤ i ∧ i < st.bufcnt.toNat + len.toNat then lane chunk (i - st.bufcnt.toNat)
          else byteAt st.buf i) ∧
      (16 ≤ st.bufcnt.toNat + len.toNat → st.bufcnt ≠ 0 →
        byteAt st'.buf i =
          if i < st.bufcnt.toNat + len.toNat - 16 then lane chunk (16 - st.bufcnt.toNat + i)
          else if i < st.bufcnt.toNat then byteAt st.buf i
          else lane chunk (i - st.bufcnt.toNat)) ∧
      (16 ≤ st.bufcnt.toNat + len.toNat → st.bufcnt = 0 → byteAt st'.buf i = byteAt st.buf i)

/-- 41_streaming_hasher.md R77: the tail window update keeps exactly the last 15 bytes of the window
followed by the chunk, and an empty chunk changes nothing. -/
def Obligations.TailWindowKeepsTheLastFifteen : Prop :=
  (∀ (st : StreamRegs) (c : Nat → Byte), tailUpdate st c 0 = st) ∧
  ∀ (st : StreamRegs) (c : Nat → Byte) (n : Nat), n ≤ 16 →
    (tailUpdate st c n).window = lastOf 15 (st.window ++ firstBytes c n) ∧
    (tailUpdate st c n).tailcnt.toNat = min 15 (st.tailcnt.toNat + n) ∧
    (tailUpdate st c n).buf = st.buf ∧ (tailUpdate st c n).bufcnt = st.bufcnt ∧
    (tailUpdate st c n).total = st.total

/-- 41_streaming_hasher.md R81: an UPDATE with n = 0 changes no register. -/
def Obligations.EmptyUpdateIsANoOp : Prop :=
  ∀ (s : State) (chunk : Data), s.hasStream = true →
    exec (.update 0 chunk) s = .next { s with busy := s.lat.update - 1 }

/-- 60_exceptions.md R90 and R91 on UPDATE and DIGEST: without the streaming module CmdError 4,
whatever the length; with it an UPDATE of 17 to 31 bytes is CmdError 3; nothing else changes. -/
def Obligations.StreamCommandsRaiseCmdError : Prop :=
  (∀ (s : State) (len : BitVec 5) (chunk : Data), s.hasStream = false →
    exec (.update len chunk) s = .next { s with
      err := true, ecause := if s.err then s.ecause else 4, busy := s.lat.bad - 1 }) ∧
  (∀ s : State, s.hasStream = false →
    exec .digest s = .next { s with
      err := true, ecause := if s.err then s.ecause else 4, busy := s.lat.bad - 1 }) ∧
  ∀ (s : State) (len : BitVec 5) (chunk : Data), s.hasStream = true → 17 ≤ len.toNat →
    exec (.update len chunk) s = .next { s with
      err := true, ecause := if s.err then s.ecause else 3, busy := s.lat.bad - 1 }

/-- 41_streaming_hasher.md R82: DIGEST latches the finalization of the pair, the window's tl-byte suffix
and TOTAL, with tl = TOTAL mod 16, and writes nothing else; the suffix lies in the window and equals the
pending bytes. Without the streaming module it is CmdError 4. -/
def Obligations.DigestFinalizesASnapshot : Prop :=
  (∀ s : State, s.stream = none →
    exec .digest s = .next { s with
      err := true, ecause := if s.err then s.ecause else 4, busy := s.lat.bad - 1 }) ∧
  ∀ (s : State) (st : StreamRegs), s.stream = some st → StreamCoherent st →
    st.total.toNat % 16 ≤ st.tailcnt.toNat ∧
    (∀ i, i < st.total.toNat % 16 →
      byteAt st.tail (st.tailcnt.toNat - st.total.toNat % 16 + i) = byteAt st.buf i) ∧
    ∃ d : Word × Word,
      d = finalize s.h1 s.h2
        (Vector.ofFn fun i =>
          if i.1 < st.total.toNat % 16 then byteAt st.tail (st.tailcnt.toNat - st.total.toNat % 16 + i.1)
          else 0x00)
        (BitVec.ofNat 4 st.total.toNat) st.total ∧
      exec .digest s = .next { s with d1 := d.1, d2 := d.2, busy := s.lat.digest - 1 }

/-- 41_streaming_hasher.md R78 and R82: the digest's tail may as well be taken from BUF. -/
def Obligations.DigestTailMayComeFromTheBuffer : Prop :=
  ∀ (s : State) (st : StreamRegs), s.stream = some st → StreamCoherent st →
    exec .digest s = .next { s with
      d1 := (finalize s.h1 s.h2
        (Vector.ofFn fun i => if i.1 < st.bufcnt.toNat then byteAt st.buf i.1 else 0x00)
        st.bufcnt st.total).1,
      d2 := (finalize s.h1 s.h2
        (Vector.ofFn fun i => if i.1 < st.bufcnt.toNat then byteAt st.buf i.1 else 0x00)
        st.bufcnt st.total).2,
      busy := s.lat.digest - 1 }

/-- DIGEST completes in every state of a build with the streaming module and writes only D1 and D2. In a
state with TAILCNT < TOTAL[3:0], which no run reaches and for which 41_streaming_hasher.md R82 gives no
tail byte, that it completes, with a free value for the byte, is the model's choice (DESIGN CHOICE, log 8). -/
def Obligations.DigestCompletesEverywhere : Prop :=
  ∀ s : State, s.hasStream = true →
    ∃ d1 d2 : Word, exec .digest s = .next { s with d1 := d1, d2 := d2, busy := s.lat.digest - 1 }

/-- 41_streaming_hasher.md R83: a DIGEST's result depends only on H1, H2, TAIL, TAILCNT and TOTAL; a second
DIGEST gives the same pair, and an UPDATE after a DIGEST continues as if the DIGEST had not happened. -/
def Obligations.DigestIsNonDestructive : Prop :=
  (∀ (s s' t t' : State) (st st' : StreamRegs), s.stream = some st → s'.stream = some st' →
    s.h1 = s'.h1 → s.h2 = s'.h2 → st.tail = st'.tail → st.tailcnt = st'.tailcnt → st.total = st'.total →
    exec .digest s = .next t → exec .digest s' = .next t' → t.d1 = t'.d1 ∧ t.d2 = t'.d2) ∧
  (∀ s t u : State, exec .digest s = .next t → exec .digest t = .next u →
    u.d1 = t.d1 ∧ u.d2 = t.d2) ∧
  (∀ s t : State, s.hasStream = true → exec .digest s = .next t →
    t = { s with d1 := t.d1, d2 := t.d2, busy := t.busy }) ∧
  ∀ (s t u v : State) (len : BitVec 5) (chunk : Data), s.hasStream = true →
    exec .digest s = .next t → exec (.update len chunk) t = .next u →
    exec (.update len chunk) s = .next v → u = { v with d1 := t.d1, d2 := t.d2 }

/-! ## Frames over all commands -/

/-- 10_state.md R13, the columns "written by": which commands write which register; the build's
parameters, the host's pins and the cycle count are written by none. The index is advanced by acceptance
(R14, Obligations.IndexCountsAcceptedCommands), and `exec`, a command's effect alone, leaves it: where the
model counts is its own division (DEDUCED, log 15). -/
def Obligations.OnlyTheListedCommandsWrite : Prop :=
  ∀ (i : Instr) (s t : State), exec i s = .next t →
    (writesAcc i = false → t.h1 = s.h1 ∧ t.h2 = s.h2) ∧
    (writesDigest i = false → t.d1 = s.d1 ∧ t.d2 = s.d2) ∧
    (writesStream i = false → t.stream = s.stream) ∧
    (i.wf = true → i.present s.hasStream = true → t.err = s.err ∧ t.ecause = s.ecause) ∧
    t.build = s.build ∧ t.pins = s.pins ∧ t.index = s.index ∧ t.cycle = s.cycle

/-- 30_encoding.md R56: a malformed word writes only ERR and ECAUSE, a legal word never writes them. -/
def Obligations.DecodeBeforeWrite : Prop :=
  ∀ (s t : State) (w : Cmd), accept w s = .next t →
    (∀ m, decode s.hasStream w = .error m →
      t = { s with err := t.err, ecause := t.ecause, busy := t.busy, index := t.index }) ∧
    ∀ i, decode s.hasStream w = .ok i → t.err = s.err ∧ t.ecause = s.ecause

/-- 60_exceptions.md R89: the effect of a malformed command. -/
def Obligations.MalformedWordSetsErr : Prop :=
  ∀ (s : State) (w : Cmd) (m : Malformed), decode s.hasStream w = .error m →
    accept w s = .next { s with
      ecause := if s.err = false then causeCode m else s.ecause, err := true,
      busy := s.lat.bad - 1, index := s.index + 1 }

/-- 60_exceptions.md R94: only reset clears ERR or ECAUSE, and a malformed command while ERR = 1 leaves
both. -/
def Obligations.ErrIsStickyUntilReset : Prop :=
  (∀ s t : State, step s = .next t → s.err = true → s.headPins.rst = false →
    t.err = true ∧ t.ecause = s.ecause) ∧
  (∀ s t : State, step s = .next t → s.headPins.rst = true → t.err = false ∧ t.ecause = 0) ∧
  ∀ (s t : State) (seed : Seed), exec (.init seed) s = .next t → t.err = s.err ∧ t.ecause = s.ecause

/-- 10_state.md R17: no command reads ERR or ECAUSE to do anything but keep them: with other values in
them, a command's effect on everything else is the same. -/
def Obligations.ErrInfluencesNothingElse : Prop :=
  ∀ (s t u : State) (w : Cmd) (err : Bool) (ecause : BitVec 4),
    accept w s = .next t → accept w { s with err := err, ecause := ecause } = .next u →
    u = { t with err := u.err, ecause := u.ecause }

/-- 10_state.md R26 and 70_reset_and_hazards.md R112: no command's result depends on BUSY, on the clock or
on what the host drives afterwards. -/
def Obligations.ResultsDoNotDependOnTheClock : Prop :=
  ∀ (i : Instr) (s t : State) (busy cycle : Nat) (pins : List Pins), exec i s = .next t →
    exec i { s with busy := busy, cycle := cycle, pins := pins } =
      .next { t with cycle := cycle, pins := pins }

/-! ## Edges -/

/-- 70_reset_and_hazards.md R107: a step whose edge accepts a legal command is that command's effect, the
edge's drive used up and the command counted; a decoded command is the only thing that runs. -/
def Obligations.StepRunsTheDecodedCommand : Prop :=
  ∀ (s : State) (p : Pins) (ps : List Pins) (i : Instr), s.pins = p :: ps →
    p.rst = false → p.valid = true → s.busy = 0 → decode s.hasStream p.cmd = .ok i →
    step s = exec i { s with pins := ps, cycle := s.cycle + 1, index := s.index + 1 }

/-- 10_state.md R14: every accepted command, malformed or not, advances the index by exactly one, and
nothing else moves it; a command is accepted at an edge where `rst = 0`, `cmd_valid = 1` and the block
is not busy. -/
def Obligations.IndexCountsAcceptedCommands : Prop :=
  ∀ s t : State, step s = .next t →
    t.index = s.index + (if s.accepts then 1 else 0) ∧
    (s.accepts = true ↔ s.headPins.rst = false ∧ s.headPins.valid = true ∧ s.busy = 0)

/-- Without an accepted command and without reset an edge changes no register: it only counts down the
latency of the command in flight. For an idle block that is 60_exceptions.md R103; for a busy one it is the
model's, which wrote the effect at acceptance (DEDUCED, log 3). -/
def Obligations.IdleEdgeHoldsTheRegisters : Prop :=
  ∀ s : State, s.headPins.rst = false → s.accepts = false →
    step s = .next { s with pins := s.pins.tail, cycle := s.cycle + 1, busy := s.busy - 1 }

/-- 70_reset_and_hazards.md R111: every step answers a next state, and without reset BUSY falls after
`busy` edges with every register as it was. That the registers stand still while BUSY is 1 is the model's,
which wrote the effect at acceptance (DEDUCED, log 3). -/
def Obligations.EveryCommandTerminates : Prop :=
  (∀ s : State, ∃ t, step s = .next t) ∧
  ∀ s : State, s.noReset s.busy →
    Host.Core.run Sys2Proof.core s.busy s =
      .next { s with pins := s.pins.drop s.busy, cycle := s.cycle + s.busy, busy := 0 }

/-- 70_reset_and_hazards.md R108: cmd_ready is 0 while reset is asserted and 1 in the first cycle after;
after a command of latency L is accepted it is 0 in the next L - 1 cycles, then 1 with the effect
visible. That the registers hold the effect already in the cycles before, which no port shows, is the
model's (DEDUCED, log 3). -/
def Obligations.ReadyReturnsAfterTheLatency : Prop :=
  (∀ s : State, s.headPins.rst = true → s.outputs.cmd_ready = false) ∧
  (∀ s t : State, s.headPins.rst = true → step s = .next t → t.headPins.rst = false →
    t.outputs.cmd_ready = true) ∧
  ∀ (s : State) (k : Nat), s.lat.wf = true → s.accepts = true → 1 ≤ k →
    k ≤ latencyOf s.build s.headPins.cmd → s.noReset k →
    ∃ t u : State, Host.Core.run Sys2Proof.core k s = .next t ∧ accept s.headPins.cmd s = .next u ∧
      t.timeless = u.timeless ∧
      (t.headPins.rst = false →
        t.outputs.cmd_ready = decide (k = latencyOf s.build s.headPins.cmd) ∧
        t.outputs.status_o[0] = !t.outputs.cmd_ready ∧
        (k = latencyOf s.build s.headPins.cmd → t.outputs = readyOutputs u))

/-- 20_memory.md R42: a run of edges without reset reaches the state after its accepted commands, taken one
at a time in the order of acceptance, and the outputs of a ready cycle show exactly that state. That the
registers hold it in a busy cycle as well, which no port shows, is the model's (DEDUCED, log 3). -/
def Obligations.EdgesRefineTheCommandSequence : Prop :=
  ∀ (k : Nat) (s : State), s.noReset k →
    ∃ t u : State, Host.Core.run Sys2Proof.core k s = .next t ∧ acceptAll (acceptedIn k s) s = .next u ∧
      t.timeless = u.timeless ∧ (t.ready = true → t.outputs = readyOutputs u)

/-- 10_state.md R24 and R25: what the ports show in a cycle where cmd_ready = 1, bit by bit for
status_o, and BUSY in every cycle. -/
def Obligations.PortsShowTheRegisters : Prop :=
  (∀ s : State, s.outputs.cmd_ready = s.ready ∧ s.outputs.status_o[0] = !s.ready) ∧
  ∀ s : State, s.ready = true →
    s.outputs.h1_o = s.h1 ∧ s.outputs.h2_o = s.h2 ∧ s.outputs.d1_o = s.d1 ∧ s.outputs.d2_o = s.d2 ∧
    s.outputs.digest_o.extractLsb' 64 64 = s.d1 ∧ s.outputs.digest_o.extractLsb' 0 64 = s.d2 ∧
    s.outputs.status_o[1] = s.err ∧ s.outputs.status_o[2] = s.hasStream ∧
    s.outputs.status_o[3] = false ∧ s.outputs.status_o.extractLsb' 4 4 = s.ecause ∧
    (∀ st, s.stream = some st →
      s.outputs.status_o.extractLsb' 8 4 = st.bufcnt ∧ s.outputs.status_o.extractLsb' 12 4 = st.tailcnt ∧
      s.outputs.total_o = st.total) ∧
    (s.hasStream = false →
      s.outputs.status_o.extractLsb' 8 4 = 0 ∧ s.outputs.status_o.extractLsb' 12 4 = 0 ∧
      s.outputs.total_o = 0)

/-- 20_memory.md R41: digest_o read as one number has D1 above D2, so its 32 hex digits, most significant
first, are the 16 of D1 and then the 16 of D2. -/
def Obligations.DigestPortHasD1AboveD2 : Prop :=
  ∀ s : State, s.ready = true →
    s.outputs.digest_o = s.d1 ++ s.d2 ∧
    s.outputs.digest_o.toNat = s.d1.toNat * 2 ^ 64 + s.d2.toNat ∧
    (∀ j, j < 16 → s.outputs.digest_o.extractLsb' (4 * (31 - j)) 4 = s.d1.extractLsb' (4 * (15 - j)) 4) ∧
    ∀ j, j < 16 → s.outputs.digest_o.extractLsb' (4 * (15 - j)) 4 = s.d2.extractLsb' (4 * (15 - j)) 4

/-- 70_reset_and_hazards.md R114: the observation of a run, read from the outputs; the counts read 0
without the streaming module (10_state.md R23). -/
def Obligations.ObservationReadsTheRegisters : Prop :=
  ∀ s : State, s.ready = true →
    (∀ st, s.stream = some st →
      s.outputs.observation =
        ⟨s.h1, s.h2, s.d1, s.d2, s.err, s.ecause, st.bufcnt, st.tailcnt, st.total⟩) ∧
    (s.stream = none → s.outputs.observation = ⟨s.h1, s.h2, s.d1, s.d2, s.err, s.ecause, 0, 0, 0⟩)

/-! ## Invariants -/

/-- The invariant holds after reset of every build. -/
def Obligations.InvariantHoldsAtReset : Prop := ∀ b : Build, StateInv (State.resetOf b)

/-- Every step keeps the invariant, and the build: ECAUSE is a code and is 0 exactly when ERR is; BUFCNT
is TOTAL mod 16, the window full or complete, the pending bytes its last. -/
def Obligations.StepKeepsTheInvariant : Prop :=
  ∀ s t : State, StateInv s → step s = .next t → StateInv t ∧ t.build = s.build

/-- 10_state.md R29: after every command, malformed words among them, the stream registers hold the
bytes fed since the last reset or INIT, and the pair is the seed pair mixed with their complete blocks
while no LOADH or BLOCK intervenes. -/
def Obligations.StreamHoldsTheBytesFed : Prop :=
  (∀ b : Build, b.hasStream = true →
    ∃ st, (State.resetOf b).stream = some st ∧ StreamTracks [] st ∧ AccTracks 0 [] (State.resetOf b)) ∧
  (∀ (s t : State) (w : Cmd) (seed : Seed), s.hasStream = true → decode true w = .ok (.init seed) →
    accept w s = .next t →
    ∃ st, t.stream = some st ∧ StreamTracks [] st ∧ AccTracks seed [] t) ∧
  (∀ (s t : State) (st : StreamRegs) (fed : List Byte) (w : Cmd), s.stream = some st →
    StreamTracks fed st → accept w s = .next t →
    ∃ st', t.stream = some st' ∧
      (∀ i, decode true w = .ok i → StreamTracks (fedAfter fed i) st') ∧
      (∀ m, decode true w = .error m → StreamTracks fed st')) ∧
  (∀ (s t : State) (st : StreamRegs) (fed : List Byte) (seed : Seed) (w : Cmd), s.stream = some st →
    StreamTracks fed st → AccTracks seed fed s → accept w s = .next t →
    (∀ i, decode true w = .ok i → keepsStream i = true →
      AccTracks seed (fedAfter fed i) t) ∧
    (∀ m, decode true w = .error m → AccTracks seed fed t)) ∧
  ∀ (st : StreamRegs) (fed : List Byte), StreamTracks fed st →
    StreamCoherent st ∧ (fed.length < 2 ^ 64 → st.total.toNat = fed.length) ∧
    st.bufcnt.toNat = st.total.toNat % 16

/-- 10_state.md R31: the bytes BUF[i] for i >= BUFCNT and TAIL[i] for i >= TAILCNT cannot be observed.
Two states that differ only in them show the same outputs, now and after every step, and still differ
only in them. In a cycle with cmd_ready = 0, where 70_reset_and_hazards.md R109 leaves the outputs open,
that two runs read the same is the model's, which draws the free values by cycle number (DESIGN CHOICE,
log 6). -/
def Obligations.HiddenBytesAreInvisible : Prop :=
  ∀ s t : State, HiddenEq s t →
    s.outputs = t.outputs ∧
    ∀ s' t' : State, step s = .next s' → step t = .next t' → HiddenEq s' t' ∧ s'.outputs = t'.outputs

/-! ## Laws of the stream -/

/-- 41_streaming_hasher.md R84: the command program ONESHOT computes the one-shot digest, in every build
and from every state. -/
def Obligations.OneShotProgramComputesOneShot : Prop :=
  ∀ (s : State) (seed : Seed) (bytes : List Byte), bytes.length < 2 ^ 64 →
    ∃ t, acceptAll ((oneShotProgram seed bytes).map encode) s = .next t ∧
      (t.d1, t.d2) = oneShot seed bytes

/-- 41_streaming_hasher.md R85: INIT, then any UPDATEs whose chunks concatenated are B, with only NOP,
FINAL or DIGEST among them, then DIGEST: the result is the one-shot digest of B. -/
def Obligations.StreamEqualsOneShot : Prop :=
  ∀ (s : State) (seed : Seed) (winit wdigest : Cmd) (ws : List Cmd), s.hasStream = true →
    decode true winit = .ok (.init seed) → decode true wdigest = .ok .digest →
    (∀ w ∈ ws, streamWord w = true) → (fedBy ws).length < 2 ^ 64 →
    ∃ t, acceptAll (winit :: ws ++ [wdigest]) s = .next t ∧ (t.d1, t.d2) = oneShot seed (fedBy ws)

/-- 30_encoding.md R57: FEED is ceil(N/16) UPDATE commands that carry the bytes in order, and STREAM
gives the one-shot digest. -/
def Obligations.StreamProgramComputesOneShot : Prop :=
  (∀ bytes : List Byte,
    ((feed bytes).map encode).length = (bytes.length + 15) / 16 ∧
    (∀ w ∈ (feed bytes).map encode, streamWord w = true) ∧
    fedBy ((feed bytes).map encode) = bytes) ∧
  ∀ (s : State) (seed : Seed) (bytes : List Byte), s.hasStream = true → bytes.length < 2 ^ 64 →
    ∃ t, acceptAll ((streamProgram seed bytes).map encode) s = .next t ∧
      (t.d1, t.d2) = oneShot seed bytes

/-- 41_streaming_hasher.md R86: `INIT s` and then any commands, from any state and from reset: the two
runs agree on H1, H2 and the stream registers, and on D1 and D2 from the first FINAL or DIGEST on. -/
def Obligations.ResetCorrectness : Prop :=
  ∀ (s : State) (seed : Seed) (winit : Cmd) (ws : List Cmd), decode s.hasStream winit = .ok (.init seed) →
    ∃ t u : State, acceptAll (winit :: ws) s = .next t ∧ acceptAll (winit :: ws) s.applyReset = .next u ∧
      t.h1 = u.h1 ∧ t.h2 = u.h2 ∧ t.stream = u.stream ∧
      ((∃ w ∈ ws, digestWord s.hasStream w = true) → t.d1 = u.d1 ∧ t.d2 = u.d2)

/-- 30_encoding.md R57: the assembler never emits a malformed word except through `.word`, malformed
meaning in a build with the streaming module (DESIGN CHOICE, log 18). -/
def Obligations.AssemblerEmitsOnlyLegalWords : Prop :=
  ∀ (line : AsmLine) (ws : List Cmd), assembleLine line = some ws → (∀ w, line ≠ .word w) →
    ∀ w ∈ ws, ∃ i, decode true w = .ok i ∧ encode i = w
end

