-- ==== Sys2Proof/Laws/Bytes.lean ====
section
/-! SUPPORT. Reading bytes of arrays, writing a range of them, and the byte lists a state holds. -/

namespace Sys2Proof.Machine

/-! ## Arrays of bytes -/

theorem byteAt_of_lt {k : Nat} (v : Vector Byte k) {i : Nat} (h : i < k) : byteAt v i = v[i] := by
  simp [byteAt, h]

theorem byteAt_ofFn {k : Nat} (f : Fin k → Byte) {i : Nat} (h : i < k) :
    byteAt (Vector.ofFn f) i = f ⟨i, h⟩ := by
  simp [byteAt_of_lt _ h]

/-- What writing `n` bytes from `off` on leaves at each index. -/
theorem byteAt_writeBytes {k : Nat} (v : Vector Byte k) (off n : Nat) (src : Nat → Byte) {i : Nat}
    (h : i < k) :
    byteAt (writeBytes v off n src) i =
      if off ≤ i ∧ i < off + n then src (i - off) else byteAt v i := by
  simp [writeBytes, byteAt_ofFn _ h, byteAt_of_lt _ h]

theorem ext_byteAt {k : Nat} {v w : Vector Byte k} (h : ∀ i, i < k → byteAt v i = byteAt w i) :
    v = w := by
  refine Vector.ext fun i hi => ?_
  simpa [byteAt_of_lt _ hi] using h i hi

/-- Writing no byte changes nothing. -/
theorem writeBytes_zero {k : Nat} (v : Vector Byte k) (off : Nat) (src : Nat → Byte) :
    writeBytes v off 0 src = v := by
  refine ext_byteAt fun i hi => ?_
  rw [byteAt_writeBytes _ _ _ _ hi, if_neg (by omega)]

/-! ## Byte lists -/

@[simp] theorem length_firstBytes (c : Nat → Byte) (n : Nat) : (firstBytes c n).length = n := by
  simp [firstBytes]

@[simp] theorem getElem_firstBytes (c : Nat → Byte) (n i : Nat) (h : i < (firstBytes c n).length) :
    (firstBytes c n)[i] = c i := by
  simp [firstBytes]

@[simp] theorem firstBytes_zero (c : Nat → Byte) : firstBytes c 0 = [] := rfl

theorem firstBytes_congr {c d : Nat → Byte} {n : Nat} (h : ∀ i, i < n → c i = d i) :
    firstBytes c n = firstBytes d n :=
  List.ext_getElem (by simp) fun i hi _ => by simpa using h i (by simpa using hi)

@[simp] theorem length_chunkBytes (len : BitVec 5) (chunk : Data) :
    (chunkBytes len chunk).length = len.toNat := by
  simp [chunkBytes]

@[simp] theorem length_pending (st : StreamRegs) : st.pending.length = st.bufcnt.toNat := by
  simp [StreamRegs.pending]

@[simp] theorem length_window (st : StreamRegs) : st.window.length = st.tailcnt.toNat := by
  simp [StreamRegs.window]

@[simp] theorem length_lastOf {α : Type} (k : Nat) (l : List α) :
    (lastOf k l).length = min k l.length := by
  simp [lastOf]; omega

theorem getElem_lastOf {α : Type} (k : Nat) (l : List α) (i : Nat) (h : i < (lastOf k l).length) :
    (lastOf k l)[i] = l[l.length - k + i]'(by simp at h; omega) := by
  simp [lastOf]

/-- The last elements of the last elements. -/
theorem lastOf_lastOf {α : Type} {j k : Nat} (l : List α) (h : j ≤ min k l.length) :
    lastOf j (lastOf k l) = lastOf j l := by
  simp only [lastOf, List.drop_drop, List.length_drop]
  congr 1
  omega

theorem seqByte_of_lt {b : List Byte} {i : Nat} (h : i < b.length) : seqByte b i = b[i] := by
  simp [seqByte, h]

/-- `le64` reads eight bytes. -/
theorem le64_congr {b c : Nat → Byte} {j k : Nat} (h : ∀ i, i < 8 → b (j + i) = c (k + i)) :
    le64 b j = le64 c k := by
  have h0 := h 0 (by omega)
  simp only [Nat.add_zero] at h0
  simp only [le64, h0, h 1 (by omega), h 2 (by omega), h 3 (by omega), h 4 (by omega),
    h 5 (by omega), h 6 (by omega), h 7 (by omega)]

end Sys2Proof.Machine
end

