-- ==== Sys2Proof/Laws/Decode.lean ====
section
/-! SUPPORT. The fields of a packed command word, and the decoder one opcode at a time. -/

namespace Sys2Proof

/-! ## Fields of a packed word -/

@[simp] theorem cmdOp_packCmd (op : BitVec 4) (len : BitVec 5) (data : Data) (tot : Word) :
    cmdOp (packCmd op len data tot) = op := by
  ext i hi
  simp only [cmdOp, packCmd, BitVec.getElem_extractLsb', BitVec.getLsbD_append]
  rw [if_pos (by omega)]; simp [← BitVec.getLsbD_eq_getElem]

@[simp] theorem cmdLen_packCmd (op : BitVec 4) (len : BitVec 5) (data : Data) (tot : Word) :
    cmdLen (packCmd op len data tot) = len := by
  ext i hi
  simp only [cmdLen, packCmd, BitVec.getElem_extractLsb', BitVec.getLsbD_append]
  rw [if_neg (by omega), if_neg (by omega), if_pos (by omega), ← BitVec.getLsbD_eq_getElem]
  congr 1; omega

@[simp] theorem cmdData_packCmd (op : BitVec 4) (len : BitVec 5) (data : Data) (tot : Word) :
    cmdData (packCmd op len data tot) = data := by
  ext i hi
  simp only [cmdData, packCmd, BitVec.getElem_extractLsb', BitVec.getLsbD_append]
  rw [if_neg (by omega), if_neg (by omega), if_neg (by omega), if_neg (by omega), if_pos (by omega),
    ← BitVec.getLsbD_eq_getElem]
  congr 1; omega

@[simp] theorem cmdTot_packCmd (op : BitVec 4) (len : BitVec 5) (data : Data) (tot : Word) :
    cmdTot (packCmd op len data tot) = tot := by
  ext i hi
  simp only [cmdTot, packCmd, BitVec.getElem_extractLsb', BitVec.getLsbD_append]
  rw [if_neg (by omega), if_neg (by omega), if_neg (by omega), if_neg (by omega), if_neg (by omega),
    show 192 + i - 4 - 4 - 5 - 51 - 128 = i by omega, BitVec.getLsbD_eq_getElem]

/-! ## Slices of a DATA field -/

theorem low_append (hi lo : Word) : (hi ++ lo).extractLsb' 0 64 = lo := by
  ext i h
  simp only [BitVec.getElem_extractLsb', BitVec.getLsbD_append]
  rw [if_pos (by omega), Nat.zero_add, BitVec.getLsbD_eq_getElem]

theorem high_append (hi lo : Word) : (hi ++ lo).extractLsb' 64 64 = hi := by
  ext i h
  simp only [BitVec.getElem_extractLsb', BitVec.getLsbD_append]
  rw [if_neg (by omega), Nat.add_sub_cancel_left, BitVec.getLsbD_eq_getElem]

theorem low_zeroExtend {n : Nat} (x : BitVec n) (h : n ≤ 128) :
    (x.zeroExtend 128).extractLsb' 0 n = x := by
  ext i hi
  simp only [BitVec.getElem_extractLsb', BitVec.truncate_eq_setWidth, BitVec.getLsbD_setWidth]
  simp [BitVec.getLsbD_eq_getElem hi]
  omega

/-! ## The decoder, one opcode at a time (30_encoding.md R53) -/

theorem decode_op0 {hs : Bool} {w : Cmd} (h : cmdOp w = 0) : decode hs w = .ok .nop := by
  simp [decode, h]

theorem decode_op1 {hs : Bool} {w : Cmd} (h : cmdOp w = 1) :
    decode hs w = .ok (.init ((cmdData w).extractLsb' 0 32)) := by
  simp [decode, h]

theorem decode_op2 {hs : Bool} {w : Cmd} (h : cmdOp w = 2) :
    decode hs w = .ok (.block ((cmdData w).extractLsb' 0 64) ((cmdData w).extractLsb' 64 64)) := by
  simp [decode, h]

theorem decode_op3 {hs : Bool} {w : Cmd} (h : cmdOp w = 3) :
    decode hs w =
      if (cmdLen w)[4] then .error .badTailLen
      else .ok (.final (cmdLen w) ((cmdData w).extractLsb' 0 120) (cmdTot w)) := by
  simp [decode, h]

theorem decode_op4 {hs : Bool} {w : Cmd} (h : cmdOp w = 4) :
    decode hs w = .ok (.loadh ((cmdData w).extractLsb' 0 64) ((cmdData w).extractLsb' 64 64)) := by
  simp [decode, h]

theorem decode_op5 {hs : Bool} {w : Cmd} (h : cmdOp w = 5) :
    decode hs w =
      if hs then
        if (cmdLen w).toNat ≤ 16 then .ok (.update (cmdLen w) (cmdData w)) else .error .badChunkLen
      else .error .noStream := by
  simp [decode, h]

theorem decode_op6 {hs : Bool} {w : Cmd} (h : cmdOp w = 6) :
    decode hs w = if hs then .ok .digest else .error .noStream := by
  simp [decode, h]

theorem decode_reserved {hs : Bool} {w : Cmd} (h : 7 ≤ (cmdOp w).toNat) :
    decode hs w = .error .badOp := by
  unfold decode
  split <;> first | omega | rfl

/-- An opcode is one of the seven or reserved. -/
theorem cmdOp_cases (w : Cmd) :
    cmdOp w = 0 ∨ cmdOp w = 1 ∨ cmdOp w = 2 ∨ cmdOp w = 3 ∨ cmdOp w = 4 ∨ cmdOp w = 5 ∨ cmdOp w = 6 ∨
      7 ≤ (cmdOp w).toNat := by
  generalize cmdOp w = op
  revert op
  decide

end Sys2Proof
end

