-- ==== Sys2Proof/Laws/State.lean ====
section
/-! SUPPORT. One lemma per field per update of the state, each true by rfl. The proofs are written `(rfl)`
so that simp rewrites with them and leaves no conversion to the kernel: a conversion that compares a state
holding `mixBlock ..` or `finalize ..` with another field by field unfolds 64-bit arithmetic on variables
and ends in a deep recursion. Rewrite with these lemmas (and the `_eq` and `_cases` lemmas of Laws/Exec.lean);
do not close such a goal by `rfl` or `exact`. -/

namespace Sys2Proof.Machine

/-! ## setAcc -/

@[simp] theorem State.setAcc_h1 (s : State) (h : Word × Word) : (s.setAcc h).h1 = h.1 := (rfl)
@[simp] theorem State.setAcc_h2 (s : State) (h : Word × Word) : (s.setAcc h).h2 = h.2 := (rfl)
@[simp] theorem State.setAcc_d1 (s : State) (h : Word × Word) : (s.setAcc h).d1 = s.d1 := (rfl)
@[simp] theorem State.setAcc_d2 (s : State) (h : Word × Word) : (s.setAcc h).d2 = s.d2 := (rfl)
@[simp] theorem State.setAcc_err (s : State) (h : Word × Word) : (s.setAcc h).err = s.err := (rfl)
@[simp] theorem State.setAcc_ecause (s : State) (h : Word × Word) : (s.setAcc h).ecause = s.ecause := (rfl)
@[simp] theorem State.setAcc_stream (s : State) (h : Word × Word) : (s.setAcc h).stream = s.stream := (rfl)
@[simp] theorem State.setAcc_busy (s : State) (h : Word × Word) : (s.setAcc h).busy = s.busy := (rfl)
@[simp] theorem State.setAcc_lat (s : State) (h : Word × Word) : (s.setAcc h).lat = s.lat := (rfl)
@[simp] theorem State.setAcc_pins (s : State) (h : Word × Word) : (s.setAcc h).pins = s.pins := (rfl)
@[simp] theorem State.setAcc_index (s : State) (h : Word × Word) : (s.setAcc h).index = s.index := (rfl)
@[simp] theorem State.setAcc_cycle (s : State) (h : Word × Word) : (s.setAcc h).cycle = s.cycle := (rfl)

/-! ## setDigest -/

@[simp] theorem State.setDigest_h1 (s : State) (d : Word × Word) : (s.setDigest d).h1 = s.h1 := (rfl)
@[simp] theorem State.setDigest_h2 (s : State) (d : Word × Word) : (s.setDigest d).h2 = s.h2 := (rfl)
@[simp] theorem State.setDigest_d1 (s : State) (d : Word × Word) : (s.setDigest d).d1 = d.1 := (rfl)
@[simp] theorem State.setDigest_d2 (s : State) (d : Word × Word) : (s.setDigest d).d2 = d.2 := (rfl)
@[simp] theorem State.setDigest_err (s : State) (d : Word × Word) : (s.setDigest d).err = s.err := (rfl)
@[simp] theorem State.setDigest_ecause (s : State) (d : Word × Word) : (s.setDigest d).ecause = s.ecause := (rfl)
@[simp] theorem State.setDigest_stream (s : State) (d : Word × Word) : (s.setDigest d).stream = s.stream := (rfl)
@[simp] theorem State.setDigest_busy (s : State) (d : Word × Word) : (s.setDigest d).busy = s.busy := (rfl)
@[simp] theorem State.setDigest_lat (s : State) (d : Word × Word) : (s.setDigest d).lat = s.lat := (rfl)
@[simp] theorem State.setDigest_pins (s : State) (d : Word × Word) : (s.setDigest d).pins = s.pins := (rfl)
@[simp] theorem State.setDigest_index (s : State) (d : Word × Word) : (s.setDigest d).index = s.index := (rfl)
@[simp] theorem State.setDigest_cycle (s : State) (d : Word × Word) : (s.setDigest d).cycle = s.cycle := (rfl)

/-! ## setStream -/

@[simp] theorem State.setStream_h1 (s : State) (st : StreamRegs) : (s.setStream st).h1 = s.h1 := (rfl)
@[simp] theorem State.setStream_h2 (s : State) (st : StreamRegs) : (s.setStream st).h2 = s.h2 := (rfl)
@[simp] theorem State.setStream_d1 (s : State) (st : StreamRegs) : (s.setStream st).d1 = s.d1 := (rfl)
@[simp] theorem State.setStream_d2 (s : State) (st : StreamRegs) : (s.setStream st).d2 = s.d2 := (rfl)
@[simp] theorem State.setStream_err (s : State) (st : StreamRegs) : (s.setStream st).err = s.err := (rfl)
@[simp] theorem State.setStream_ecause (s : State) (st : StreamRegs) : (s.setStream st).ecause = s.ecause := (rfl)
@[simp] theorem State.setStream_stream (s : State) (st : StreamRegs) : (s.setStream st).stream = some st := (rfl)
@[simp] theorem State.setStream_busy (s : State) (st : StreamRegs) : (s.setStream st).busy = s.busy := (rfl)
@[simp] theorem State.setStream_lat (s : State) (st : StreamRegs) : (s.setStream st).lat = s.lat := (rfl)
@[simp] theorem State.setStream_pins (s : State) (st : StreamRegs) : (s.setStream st).pins = s.pins := (rfl)
@[simp] theorem State.setStream_index (s : State) (st : StreamRegs) : (s.setStream st).index = s.index := (rfl)
@[simp] theorem State.setStream_cycle (s : State) (st : StreamRegs) : (s.setStream st).cycle = s.cycle := (rfl)

/-! ## clearStream -/

@[simp] theorem State.clearStream_h1 (s : State) : s.clearStream.h1 = s.h1 := (rfl)
@[simp] theorem State.clearStream_h2 (s : State) : s.clearStream.h2 = s.h2 := (rfl)
@[simp] theorem State.clearStream_d1 (s : State) : s.clearStream.d1 = s.d1 := (rfl)
@[simp] theorem State.clearStream_d2 (s : State) : s.clearStream.d2 = s.d2 := (rfl)
@[simp] theorem State.clearStream_err (s : State) : s.clearStream.err = s.err := (rfl)
@[simp] theorem State.clearStream_ecause (s : State) : s.clearStream.ecause = s.ecause := (rfl)
@[simp] theorem State.clearStream_stream (s : State) : s.clearStream.stream = s.stream.map fun _ => StreamRegs.reset := (rfl)
@[simp] theorem State.clearStream_busy (s : State) : s.clearStream.busy = s.busy := (rfl)
@[simp] theorem State.clearStream_lat (s : State) : s.clearStream.lat = s.lat := (rfl)
@[simp] theorem State.clearStream_pins (s : State) : s.clearStream.pins = s.pins := (rfl)
@[simp] theorem State.clearStream_index (s : State) : s.clearStream.index = s.index := (rfl)
@[simp] theorem State.clearStream_cycle (s : State) : s.clearStream.cycle = s.cycle := (rfl)

/-! ## occupy -/

@[simp] theorem State.occupy_h1 (s : State) (l : Nat) : (s.occupy l).h1 = s.h1 := (rfl)
@[simp] theorem State.occupy_h2 (s : State) (l : Nat) : (s.occupy l).h2 = s.h2 := (rfl)
@[simp] theorem State.occupy_d1 (s : State) (l : Nat) : (s.occupy l).d1 = s.d1 := (rfl)
@[simp] theorem State.occupy_d2 (s : State) (l : Nat) : (s.occupy l).d2 = s.d2 := (rfl)
@[simp] theorem State.occupy_err (s : State) (l : Nat) : (s.occupy l).err = s.err := (rfl)
@[simp] theorem State.occupy_ecause (s : State) (l : Nat) : (s.occupy l).ecause = s.ecause := (rfl)
@[simp] theorem State.occupy_stream (s : State) (l : Nat) : (s.occupy l).stream = s.stream := (rfl)
@[simp] theorem State.occupy_busy (s : State) (l : Nat) : (s.occupy l).busy = l - 1 := (rfl)
@[simp] theorem State.occupy_lat (s : State) (l : Nat) : (s.occupy l).lat = s.lat := (rfl)
@[simp] theorem State.occupy_pins (s : State) (l : Nat) : (s.occupy l).pins = s.pins := (rfl)
@[simp] theorem State.occupy_index (s : State) (l : Nat) : (s.occupy l).index = s.index := (rfl)
@[simp] theorem State.occupy_cycle (s : State) (l : Nat) : (s.occupy l).cycle = s.cycle := (rfl)

/-! ## cmdError -/

@[simp] theorem cmdError_h1 (m : Malformed) (s : State) : (cmdError m s).h1 = s.h1 := (rfl)
@[simp] theorem cmdError_h2 (m : Malformed) (s : State) : (cmdError m s).h2 = s.h2 := (rfl)
@[simp] theorem cmdError_d1 (m : Malformed) (s : State) : (cmdError m s).d1 = s.d1 := (rfl)
@[simp] theorem cmdError_d2 (m : Malformed) (s : State) : (cmdError m s).d2 = s.d2 := (rfl)
@[simp] theorem cmdError_err (m : Malformed) (s : State) : (cmdError m s).err = true := (rfl)
@[simp] theorem cmdError_ecause (m : Malformed) (s : State) : (cmdError m s).ecause = nextCause s.err s.ecause m := (rfl)
@[simp] theorem cmdError_stream (m : Malformed) (s : State) : (cmdError m s).stream = s.stream := (rfl)
@[simp] theorem cmdError_busy (m : Malformed) (s : State) : (cmdError m s).busy = s.lat.bad - 1 := (rfl)
@[simp] theorem cmdError_lat (m : Malformed) (s : State) : (cmdError m s).lat = s.lat := (rfl)
@[simp] theorem cmdError_pins (m : Malformed) (s : State) : (cmdError m s).pins = s.pins := (rfl)
@[simp] theorem cmdError_index (m : Malformed) (s : State) : (cmdError m s).index = s.index := (rfl)
@[simp] theorem cmdError_cycle (m : Malformed) (s : State) : (cmdError m s).cycle = s.cycle := (rfl)

/-! ## applyReset -/

@[simp] theorem State.applyReset_h1 (s : State) : s.applyReset.h1 = 0 := (rfl)
@[simp] theorem State.applyReset_h2 (s : State) : s.applyReset.h2 = 0 := (rfl)
@[simp] theorem State.applyReset_d1 (s : State) : s.applyReset.d1 = 0 := (rfl)
@[simp] theorem State.applyReset_d2 (s : State) : s.applyReset.d2 = 0 := (rfl)
@[simp] theorem State.applyReset_err (s : State) : s.applyReset.err = false := (rfl)
@[simp] theorem State.applyReset_ecause (s : State) : s.applyReset.ecause = 0 := (rfl)
@[simp] theorem State.applyReset_stream (s : State) : s.applyReset.stream = s.stream.map fun _ => StreamRegs.reset := (rfl)
@[simp] theorem State.applyReset_busy (s : State) : s.applyReset.busy = 0 := (rfl)
@[simp] theorem State.applyReset_lat (s : State) : s.applyReset.lat = s.lat := (rfl)
@[simp] theorem State.applyReset_pins (s : State) : s.applyReset.pins = s.pins := (rfl)
@[simp] theorem State.applyReset_index (s : State) : s.applyReset.index = s.index := (rfl)
@[simp] theorem State.applyReset_cycle (s : State) : s.applyReset.cycle = s.cycle := (rfl)

/-! ## tick -/

@[simp] theorem State.tick_h1 (s : State) : s.tick.h1 = s.h1 := (rfl)
@[simp] theorem State.tick_h2 (s : State) : s.tick.h2 = s.h2 := (rfl)
@[simp] theorem State.tick_d1 (s : State) : s.tick.d1 = s.d1 := (rfl)
@[simp] theorem State.tick_d2 (s : State) : s.tick.d2 = s.d2 := (rfl)
@[simp] theorem State.tick_err (s : State) : s.tick.err = s.err := (rfl)
@[simp] theorem State.tick_ecause (s : State) : s.tick.ecause = s.ecause := (rfl)
@[simp] theorem State.tick_stream (s : State) : s.tick.stream = s.stream := (rfl)
@[simp] theorem State.tick_busy (s : State) : s.tick.busy = s.busy := (rfl)
@[simp] theorem State.tick_lat (s : State) : s.tick.lat = s.lat := (rfl)
@[simp] theorem State.tick_pins (s : State) : s.tick.pins = s.pins.tail := (rfl)
@[simp] theorem State.tick_index (s : State) : s.tick.index = s.index := (rfl)
@[simp] theorem State.tick_cycle (s : State) : s.tick.cycle = s.cycle + 1 := (rfl)

/-! ## count -/

@[simp] theorem State.count_h1 (s : State) : s.count.h1 = s.h1 := (rfl)
@[simp] theorem State.count_h2 (s : State) : s.count.h2 = s.h2 := (rfl)
@[simp] theorem State.count_d1 (s : State) : s.count.d1 = s.d1 := (rfl)
@[simp] theorem State.count_d2 (s : State) : s.count.d2 = s.d2 := (rfl)
@[simp] theorem State.count_err (s : State) : s.count.err = s.err := (rfl)
@[simp] theorem State.count_ecause (s : State) : s.count.ecause = s.ecause := (rfl)
@[simp] theorem State.count_stream (s : State) : s.count.stream = s.stream := (rfl)
@[simp] theorem State.count_busy (s : State) : s.count.busy = s.busy := (rfl)
@[simp] theorem State.count_lat (s : State) : s.count.lat = s.lat := (rfl)
@[simp] theorem State.count_pins (s : State) : s.count.pins = s.pins := (rfl)
@[simp] theorem State.count_index (s : State) : s.count.index = s.index + 1 := (rfl)
@[simp] theorem State.count_cycle (s : State) : s.count.cycle = s.cycle := (rfl)

/-! ## HAS_STREAM -/

theorem State.hasStream_of_some {s : State} {st : StreamRegs} (h : s.stream = some st) :
    s.hasStream = true := by simp [State.hasStream, h]

theorem State.hasStream_of_none {s : State} (h : s.stream = none) : s.hasStream = false := by
  simp [State.hasStream, h]

theorem State.exists_stream {s : State} (h : s.hasStream = true) : ∃ st, s.stream = some st :=
  Option.isSome_iff_exists.mp h

theorem State.stream_eq_none {s : State} (h : s.hasStream = false) : s.stream = none := by
  simpa [State.hasStream] using h

@[simp] theorem State.setAcc_hasStream (s : State) (h : Word × Word) : (s.setAcc h).hasStream = s.hasStream := (rfl)
@[simp] theorem State.setDigest_hasStream (s : State) (d : Word × Word) : (s.setDigest d).hasStream = s.hasStream := (rfl)
@[simp] theorem State.setStream_hasStream (s : State) (st : StreamRegs) : (s.setStream st).hasStream = true := (rfl)
@[simp] theorem State.clearStream_hasStream (s : State) :
    s.clearStream.hasStream = s.hasStream := by
  simp [State.hasStream]
@[simp] theorem State.occupy_hasStream (s : State) (l : Nat) : (s.occupy l).hasStream = s.hasStream := (rfl)
@[simp] theorem cmdError_hasStream (m : Malformed) (s : State) : (cmdError m s).hasStream = s.hasStream := (rfl)
@[simp] theorem State.applyReset_hasStream (s : State) :
    s.applyReset.hasStream = s.hasStream := by
  simp [State.hasStream]
@[simp] theorem State.tick_hasStream (s : State) : s.tick.hasStream = s.hasStream := (rfl)
@[simp] theorem State.count_hasStream (s : State) : s.count.hasStream = s.hasStream := (rfl)

/-- Two states with equal fields are equal. -/
theorem State.eq_of_fields {s t : State} (h1 : s.h1 = t.h1) (h2 : s.h2 = t.h2) (d1 : s.d1 = t.d1)
    (d2 : s.d2 = t.d2) (err : s.err = t.err) (ecause : s.ecause = t.ecause)
    (stream : s.stream = t.stream) (busy : s.busy = t.busy) (lat : s.lat = t.lat)
    (pins : s.pins = t.pins) (index : s.index = t.index) (cycle : s.cycle = t.cycle) : s = t := by
  cases s; cases t; simp_all

/-! ## Updates as records, for any value written -/

theorem State.setAcc_occupy (s : State) (h : Word × Word) (l : Nat) :
    (s.setAcc h).occupy l = { s with h1 := h.1, h2 := h.2, busy := l - 1 } := (rfl)

theorem State.setDigest_occupy (s : State) (d : Word × Word) (l : Nat) :
    (s.setDigest d).occupy l = { s with d1 := d.1, d2 := d.2, busy := l - 1 } := (rfl)

theorem State.setAcc_setStream_occupy (s : State) (h : Word × Word) (st : StreamRegs) (l : Nat) :
    ((s.setAcc h).setStream st).occupy l =
      { s with h1 := h.1, h2 := h.2, stream := some st, busy := l - 1 } := (rfl)

theorem State.setAcc_clearStream_occupy (s : State) (h : Word × Word) (l : Nat) :
    ((s.setAcc h).clearStream).occupy l =
      { s with h1 := h.1, h2 := h.2, stream := s.stream.map fun _ => StreamRegs.reset, busy := l - 1 } :=
  (rfl)

theorem cmdError_eq (m : Malformed) (s : State) :
    cmdError m s =
      { s with ecause := nextCause s.err s.ecause m, err := true, busy := s.lat.bad - 1 } := (rfl)

end Sys2Proof.Machine
end

