-- ==== Sys2Proof/Laws/Exec.lean ====
section
/-! SUPPORT. What each operation can do, said once: if it answers a next state, it is one of these. -/

namespace Sys2Proof.Machine

/-! ## The commands that have one path -/

theorem exec_nop (s : State) : exec .nop s = .next (s.occupy s.lat.nop) := rfl

theorem exec_nop_eq {s t : State} (h : exec .nop s = .next t) : t = s.occupy s.lat.nop :=
  (Host.Outcome.next.inj h).symm

theorem exec_init (seed : Seed) (s : State) :
    exec (.init seed) s =
      .next (((s.setAcc (seedWord seed, seedWord seed)).clearStream).occupy s.lat.init) := rfl

theorem exec_init_eq {seed : Seed} {s t : State} (h : exec (.init seed) s = .next t) :
    t = ((s.setAcc (seedWord seed, seedWord seed)).clearStream).occupy s.lat.init :=
  (Host.Outcome.next.inj h).symm

theorem exec_loadh (h1 h2 : Word) (s : State) :
    exec (.loadh h1 h2) s = .next ((s.setAcc (h1, h2)).occupy s.lat.loadh) := rfl

theorem exec_loadh_eq {h1 h2 : Word} {s t : State} (h : exec (.loadh h1 h2) s = .next t) :
    t = (s.setAcc (h1, h2)).occupy s.lat.loadh :=
  (Host.Outcome.next.inj h).symm

theorem exec_block (k1 k2 : Word) (s : State) :
    exec (.block k1 k2) s = .next ((s.setAcc (mixBlock s.h1 s.h2 k1 k2)).occupy s.lat.block) := rfl

theorem exec_block_eq {k1 k2 : Word} {s t : State} (h : exec (.block k1 k2) s = .next t) :
    t = (s.setAcc (mixBlock s.h1 s.h2 k1 k2)).occupy s.lat.block :=
  (Host.Outcome.next.inj h).symm

/-! ## The commands that can raise CmdError -/

/-- FINAL latches a digest, or raises CmdError where LEN[4] = 1. -/
theorem exec_final_cases {len : BitVec 5} {tail : BitVec 120} {total : Word} {s t : State}
    (h : exec (.final len tail total) s = .next t) :
    (len[4] = true ∧ t = cmdError .badTailLen s) ∨
    (len[4] = false ∧
      t = (s.setDigest (finalize s.h1 s.h2 (tailBytes tail) (tailLen len) total)).occupy s.lat.final) := by
  simp only [exec, execFinal] at h
  cases hl : len[4] with
  | true => simp only [hl, if_true] at h; exact .inl ⟨rfl, (Host.Outcome.next.inj h).symm⟩
  | false =>
    simp only [hl, Bool.false_eq_true, if_false] at h
    exact .inr ⟨rfl, (Host.Outcome.next.inj h).symm⟩

/-- UPDATE takes its chunk, or raises CmdError where the module is absent or the length illegal. -/
theorem exec_update_cases {len : BitVec 5} {chunk : Data} {s t : State}
    (h : exec (.update len chunk) s = .next t) :
    (s.stream = none ∧ t = cmdError .noStream s) ∨
    ∃ st, s.stream = some st ∧
      ((16 < len.toNat ∧ t = cmdError .badChunkLen s) ∨
        (len.toNat ≤ 16 ∧
          t = ((s.setAcc (takeChunk (s.h1, s.h2) st (lane chunk) len.toNat).1).setStream
            (takeChunk (s.h1, s.h2) st (lane chunk) len.toNat).2).occupy s.lat.update)) := by
  simp only [exec, execUpdate] at h
  cases hs : s.stream with
  | none => rw [hs] at h; exact .inl ⟨rfl, (Host.Outcome.next.inj h).symm⟩
  | some st =>
    rw [hs] at h
    refine .inr ⟨st, rfl, ?_⟩
    by_cases hl : len.toNat > 16
    · simp only [hl, if_true] at h; exact .inl ⟨hl, (Host.Outcome.next.inj h).symm⟩
    · simp only [hl, if_false] at h; exact .inr ⟨by omega, (Host.Outcome.next.inj h).symm⟩

/-- A legal UPDATE, as an equation. -/
theorem exec_update_legal {len : BitVec 5} {chunk : Data} {s : State} {st : StreamRegs}
    (hs : s.stream = some st) (hl : len.toNat ≤ 16) :
    exec (.update len chunk) s =
      .next (((s.setAcc (takeChunk (s.h1, s.h2) st (lane chunk) len.toNat).1).setStream
        (takeChunk (s.h1, s.h2) st (lane chunk) len.toNat).2).occupy s.lat.update) := by
  simp only [exec, execUpdate, hs]
  rw [if_neg (by omega)]

/-- DIGEST latches the snapshot's digest, or raises CmdError where the module is absent. -/
theorem exec_digest_cases {s t : State} (h : exec .digest s = .next t) :
    (s.stream = none ∧ t = cmdError .noStream s) ∨
    ∃ st, s.stream = some st ∧
      t = (s.setDigest (finalize s.h1 s.h2 (digestTail st) (digestTailLen st) st.total)).occupy
        s.lat.digest := by
  simp only [exec, execDigest] at h
  cases hs : s.stream with
  | none => rw [hs] at h; exact .inl ⟨rfl, (Host.Outcome.next.inj h).symm⟩
  | some st => rw [hs] at h; exact .inr ⟨st, rfl, (Host.Outcome.next.inj h).symm⟩

/-! ## Accepting a word, and an edge -/

/-- Accepting a word runs the command it decodes to, or raises CmdError. -/
theorem accept_cases {w : Cmd} {s t : State} (h : accept w s = .next t) :
    (∃ i, decode s.hasStream w = .ok i ∧ exec i s.count = .next t) ∨
    ∃ m, decode s.hasStream w = .error m ∧ t = cmdError m s.count := by
  simp only [accept] at h
  cases hd : decode s.hasStream w with
  | ok i => rw [hd] at h; exact .inl ⟨i, rfl, h⟩
  | error m => rw [hd] at h; exact .inr ⟨m, rfl, (Host.Outcome.next.inj h).symm⟩

/-- An edge resets, waits, accepts a command or idles. -/
theorem step_cases {s t : State} (h : step s = .next t) :
    (s.headPins.rst = true ∧ t = s.tick.applyReset) ∨
    (s.headPins.rst = false ∧ s.busy ≠ 0 ∧ t = { s.tick with busy := s.busy - 1 }) ∨
    (s.headPins.rst = false ∧ s.busy = 0 ∧ s.headPins.valid = true ∧
      accept s.headPins.cmd s.tick = .next t) ∨
    (s.headPins.rst = false ∧ s.busy = 0 ∧ s.headPins.valid = false ∧ t = s.tick) := by
  simp only [step, edge] at h
  cases hr : s.headPins.rst with
  | true => simp only [hr, if_true] at h; exact .inl ⟨rfl, (Host.Outcome.next.inj h).symm⟩
  | false =>
    simp only [hr, Bool.false_eq_true, if_false] at h
    by_cases hb : s.busy = 0
    · have hn : s.tick.busyNow = false := by simp [State.busyNow, hb]
      simp only [hn, Bool.false_eq_true, if_false] at h
      cases hv : s.headPins.valid with
      | true => simp only [hv, if_true] at h; exact .inr (.inr (.inl ⟨rfl, hb, rfl, h⟩))
      | false =>
        simp only [hv, Bool.false_eq_true, if_false] at h
        exact .inr (.inr (.inr ⟨rfl, hb, rfl, (Host.Outcome.next.inj h).symm⟩))
    · have hn : s.tick.busyNow = true := by simp [State.busyNow, hb]
      simp only [hn, if_true] at h
      exact .inr (.inl ⟨rfl, hb, (Host.Outcome.next.inj h).symm⟩)

end Sys2Proof.Machine
end

