-- ==== Sys2Proof/Laws/Encode.lean ====
section
/-! SUPPORT. What the encoder leaves out of a command, and that no command reads it. -/

namespace Sys2Proof.Machine

/-! ## Lanes kept by the encoder (30_encoding.md R50, R51) -/

theorem getLsbD_keepLanes (len : BitVec 5) (data : Data) (i : Nat) :
    (keepLanes len data).getLsbD i = (data.getLsbD i && decide (i < 8 * len.toNat)) := by
  rcases Nat.lt_or_ge i 128 with h | h
  · simp only [keepLanes, BitVec.getLsbD_and, BitVec.getLsbD_not, BitVec.getLsbD_shiftLeft,
      BitVec.getLsbD_allOnes, h, decide_true, Bool.true_and]
    by_cases hk : i < 8 * len.toNat
    · simp [hk]
    · simp [hk, (by omega : i - 8 * len.toNat < 128)]
  · simp [BitVec.getLsbD_of_ge _ _ h]

theorem lane_keepLanes (len : BitVec 5) (data : Data) (i : Nat) :
    lane (keepLanes len data) i = if i < len.toNat then lane data i else 0 := by
  apply BitVec.eq_of_getLsbD_eq
  intro j hj
  simp only [lane, BitVec.getLsbD_extractLsb', getLsbD_keepLanes, hj, decide_true, Bool.true_and]
  split_ifs with h
  · simp only [BitVec.getLsbD_extractLsb', hj, decide_true, Bool.true_and]
    rw [decide_eq_true (by omega : 8 * i + j < 8 * len.toNat), Bool.and_true]
  · rw [decide_eq_false (by omega : ¬8 * i + j < 8 * len.toNat)]
    simp

@[simp] theorem keepLanes_keepLanes (len : BitVec 5) (data : Data) :
    keepLanes len (keepLanes len data) = keepLanes len data := by
  apply BitVec.eq_of_getLsbD_eq
  intro i _
  simp only [getLsbD_keepLanes, Bool.and_assoc, Bool.and_self]

@[simp] theorem encode_dropIgnored (i : Instr) : encode i.dropIgnored = encode i := by
  cases i with
  | update len chunk => simp [encode, Instr.dropIgnored, opcode, lenField, dataField, totField]
  | nop | init _ | block _ _ | final _ _ _ | loadh _ _ | digest => rfl

/-! ## UPDATE reads its chunk's lanes below LEN only (41_streaming_hasher.md R79) -/

theorem writeBytes_congr {k : Nat} (v : Vector Byte k) (off n : Nat) {c d : Nat → Byte}
    (h : ∀ i, i < n → c i = d i) : writeBytes v off n c = writeBytes v off n d := by
  refine ext_byteAt fun i hi => ?_
  rw [byteAt_writeBytes _ _ _ _ hi, byteAt_writeBytes _ _ _ _ hi]
  split_ifs with hr
  · exact h _ (by omega)
  · rfl

theorem tailUpdate_congr (st : StreamRegs) {c d : Nat → Byte} {n : Nat} (h : ∀ i, i < n → c i = d i) :
    tailUpdate st c n = tailUpdate st d n := by
  simp only [tailUpdate]
  split_ifs with h1 h2
  · simp only [StreamRegs.mk.injEq, true_and, and_true]
    exact congrArg Vector.ofFn (funext fun i => h _ (by omega))
  · simp only [StreamRegs.mk.injEq, true_and, and_true]
    refine congrArg Vector.ofFn (funext fun i => ?_)
    split_ifs with h3
    · rfl
    · exact h _ (by omega)
  · rw [writeBytes_congr _ _ _ h]

theorem chunkRest_congr (a : Word × Word) (st : StreamRegs) {c d : Nat → Byte} {n : Nat} (off : Nat)
    (h : ∀ i, i < n → c i = d i) : chunkRest a st c n off = chunkRest a st d n off := by
  simp only [chunkRest, decide_eq_true_eq]
  rw [tailUpdate_congr _ h]
  split_ifs with hw
  · rw [writeBytes_congr _ _ _ fun i hi => h (off + 16 + i) (by omega)]
    simp only [mixBytes]
    rw [le64_congr fun i hi => h (off + i) (by omega), le64_congr fun i hi => h (off + 8 + i) (by omega)]
  · rw [writeBytes_congr _ _ _ fun i hi => h (off + i) (by omega)]

theorem takeChunk_congr (a : Word × Word) (st : StreamRegs) {c d : Nat → Byte} {n : Nat}
    (h : ∀ i, i < n → c i = d i) : takeChunk a st c n = takeChunk a st d n := by
  simp only [takeChunk]
  split_ifs with h1 h2
  · rw [writeBytes_congr _ _ _ fun i hi => h i (by omega), chunkRest_congr _ _ _ h]
  · rw [writeBytes_congr _ _ _ h, tailUpdate_congr _ h]
  · exact chunkRest_congr _ _ _ h

/-- Two chunks with the same lanes below LEN have the same effect. -/
theorem execUpdate_congr {len : BitVec 5} {c d : Data} (s : State)
    (h : ∀ i, i < len.toNat → lane c i = lane d i) : execUpdate len c s = execUpdate len d s := by
  simp only [execUpdate]
  cases s.stream with
  | none => rfl
  | some st => simp only [takeChunk_congr _ st h]

end Sys2Proof.Machine
end

