-- ==== Sys2Proof/Laws/OneShot.lean ====
section
/-! SUPPORT. Mixing the blocks of a byte sequence piece by piece. -/

namespace Sys2Proof.Machine

theorem seqByte_append_left {b c : List Byte} {i : Nat} (h : i < b.length) :
    seqByte (b ++ c) i = seqByte b i := by
  simp [seqByte, List.getElem?_append_left h]

theorem seqByte_drop (b : List Byte) (k i : Nat) : seqByte (b.drop k) i = seqByte b (k + i) := by
  simp [seqByte]

/-- The next block, as the bytes it reads. -/
theorem mixBlocks_succ (b : List Byte) (j : Nat) (h : Word × Word) :
    mixBlocks b (j + 1) h = mixBytes (mixBlocks b j h) (seqByte b) (16 * j) := rfl

/-- Blocks that lie inside a front part are not changed by what follows it. -/
theorem mixBlocks_append (b c : List Byte) (m : Nat) (h : Word × Word) (hm : 16 * m ≤ b.length) :
    mixBlocks (b ++ c) m h = mixBlocks b m h := by
  induction m with
  | zero => rfl
  | succ m ih =>
    rw [mixBlocks_succ, mixBlocks_succ, ih (by omega)]
    simp only [mixBytes]
    rw [le64_congr (c := seqByte b) (k := 16 * m) fun i hi => seqByte_append_left (by omega),
      le64_congr (c := seqByte b) (k := 16 * m + 8) fun i hi => seqByte_append_left (by omega)]

/-- Mixing `m + k` blocks is mixing `m`, then `k` of the rest. -/
theorem mixBlocks_add (b : List Byte) (m k : Nat) (h : Word × Word) :
    mixBlocks b (m + k) h = mixBlocks (b.drop (16 * m)) k (mixBlocks b m h) := by
  induction k with
  | zero => rfl
  | succ k ih =>
    rw [← Nat.add_assoc, mixBlocks_succ, mixBlocks_succ, ih]
    simp only [mixBytes]
    rw [le64_congr (b := seqByte b) (c := seqByte (b.drop (16 * m))) (j := 16 * (m + k)) (k := 16 * k)
        fun i hi => by rw [seqByte_drop]; congr 1; omega,
      le64_congr (b := seqByte b) (c := seqByte (b.drop (16 * m))) (j := 16 * (m + k) + 8)
        (k := 16 * k + 8) fun i hi => by rw [seqByte_drop]; congr 1; omega]

end Sys2Proof.Machine
end

