-- ==== Sys2Proof/Laws/PerInstr.lean ====
section
/-! SUPPORT. Families of statements about every command as syntax, one lemma per constructor. -/

namespace Sys2Proof.Laws

/-! ## EncodeFields: the fields of an encoded command (30_encoding.md R48, R51, R52) -/

/-- The encoded word carries the command's opcode, length, data and total in the four fields. -/
def EncodeFields.Statement (i : Instr) : Prop :=
  cmdOp (encode i) = opcode i ∧ cmdLen (encode i) = lenField i ∧ cmdData (encode i) = dataField i ∧
    cmdTot (encode i) = totField i

theorem EncodeFields.of_pack (i : Instr) : EncodeFields.Statement i := by
  simp [EncodeFields.Statement, encode]

theorem EncodeFields.nop : EncodeFields.Statement .nop := EncodeFields.of_pack _

theorem EncodeFields.init (seed : Seed) : EncodeFields.Statement (.init seed) := EncodeFields.of_pack _

theorem EncodeFields.block (k1 k2 : Word) : EncodeFields.Statement (.block k1 k2) :=
  EncodeFields.of_pack _

theorem EncodeFields.final (len : BitVec 5) (tail : BitVec 120) (total : Word) :
    EncodeFields.Statement (.final len tail total) := EncodeFields.of_pack _

theorem EncodeFields.loadh (h1 h2 : Word) : EncodeFields.Statement (.loadh h1 h2) :=
  EncodeFields.of_pack _

theorem EncodeFields.update (len : BitVec 5) (chunk : Data) :
    EncodeFields.Statement (.update len chunk) := EncodeFields.of_pack _

theorem EncodeFields.digest : EncodeFields.Statement .digest := EncodeFields.of_pack _

end Sys2Proof.Laws
end

