-- ==== Sys2Proof/Laws/Ports.lean ====
section
/-! SUPPORT. The bits of the status word, and the outputs in a ready and in a busy cycle. -/

namespace Sys2Proof.Machine

/-- BUSY is bit 0 (10_state.md R24). -/
@[simp] theorem statusWord_bit0 (f : BitVec 15) (b : Bool) : (statusWord f b)[0] = b := by
  rw [← BitVec.getLsbD_eq_getElem, statusWord, BitVec.getLsbD_append]
  simp

/-- The bits above BUSY are the fields' bits. -/
theorem statusWord_getLsbD_succ (f : BitVec 15) (b : Bool) (i : Nat) :
    (statusWord f b).getLsbD (i + 1) = f.getLsbD i := by
  rw [statusWord, BitVec.getLsbD_append]
  simp

/-- A slice above BUSY is a slice of the fields. -/
theorem statusWord_slice (f : BitVec 15) (b : Bool) (lo n : Nat) :
    (statusWord f b).extractLsb' (lo + 1) n = f.extractLsb' lo n := by
  ext i hi
  simp only [BitVec.getElem_extractLsb']
  rw [show lo + 1 + i = lo + i + 1 by omega, statusWord_getLsbD_succ]

theorem outputs_of_ready {s : State} (h : s.ready = true) : s.outputs = readyOutputs s := by
  simp [State.outputs, h]

theorem outputs_of_busy {s : State} (h : s.ready = false) : s.outputs = busyOutputs s.cycle := by
  simp [State.outputs, h]

end Sys2Proof.Machine
end

