-- ==== Sys2Proof/Tests/Slice0.lean ====
section
/-! SUPPORT. Tests and witnesses. Every expected value is the spec's own, from the file named beside it;
a witness shows that the hypotheses of the obligation it is named after can be met. -/

namespace Sys2Proof.Machine.Tests

/-! ## Helpers -/

/-- Whether a step answers a next state with a property. -/
def nextIs (o : Host.Outcome State Fault Refusal) (p : State → Bool) : Bool :=
  match o with
  | .next t => p t
  | .fault _ => false
  | .refused _ => false

/-- The machine `s` with the host offering `w` at the next edge. -/
def offering (s : State) (w : Cmd) : State := { s with pins := [Pins.offer w] }

/-- The machine `s` with the host asserting `rst` at the next edge while it offers a command. -/
def resetting (s : State) : State := { s with pins := [{ rst := true, valid := true, cmd := 1 }] }

/-- One step of `s` on the word `w`. -/
def feedWord (s : State) (w : Cmd) : Host.Outcome State Fault Refusal := step (offering s w)

/-- What the outputs show of a state: H1, H2, D1, D2, TOTAL and status_o. -/
def shows (h1 h2 d1 d2 total : Word) (status : BitVec 16) (t : State) : Bool :=
  decide (t.outputs.h1_o = h1 ∧ t.outputs.h2_o = h2 ∧ t.outputs.d1_o = d1 ∧ t.outputs.d2_o = d2 ∧
    t.outputs.total_o = total ∧ t.outputs.status_o = status ∧ t.outputs.cmd_ready = true)

/-- After reset, HAS_STREAM = 0. -/
def noStream : State := State.resetOf { Build.singleCycle with hasStream := false }

/-- After reset, every latency 3. -/
def slow : State :=
  State.resetOf { hasStream := true,
                  lat := { nop := 3, init := 3, loadh := 3, block := 3, final := 3, update := 3,
                           digest := 3, bad := 3 } }

/-- The stream registers after the first `n` of the bytes 0xa0, 0xa1, ... were fed. -/
def fedRegs (n : Nat) : StreamRegs :=
  { buf := Vector.ofFn fun i => if i.1 < n then BitVec.ofNat 8 (0xa0 + i.1) else 0, bufcnt := BitVec.ofNat 4 n,
    tail := Vector.ofFn fun i => if i.1 < n then BitVec.ofNat 8 (0xa0 + i.1) else 0, tailcnt := BitVec.ofNat 4 n,
    total := BitVec.ofNat 64 n }

/-- After reset and the first `n` of the bytes 0xa0, 0xa1, ..., for `n` up to 15. -/
def fed (n : Nat) : State := { State.reset with stream := some (fedRegs n) }

/-- The first `n` of the bytes 0xa0, 0xa1, .... -/
def fedBytes (n : Nat) : List Byte := (List.range n).map fun i => BitVec.ofNat 8 (0xa0 + i)

/-- The same state with other bytes where no port shows them. -/
def fedHidden (n : Nat) : State :=
  { State.reset with
    stream := some
      { fedRegs n with
        buf := Vector.ofFn fun i => if i.1 < n then BitVec.ofNat 8 (0xa0 + i.1) else 0xee,
        tail := Vector.ofFn fun i => if i.1 < n then BitVec.ofNat 8 (0xa0 + i.1) else 0xdd } }

/-! ## WellFormed refuses what the encoding forbids (30_encoding.md R51, R52) -/

theorem test_wf_final_len16 : (Instr.final 16 0 0).wf = false := by decide
theorem test_wf_final_len15 : (Instr.final 15 0 0).wf = true := by decide
theorem test_wf_update_len17 : (Instr.update 17 0).wf = false := by decide
theorem test_wf_update_len16 : (Instr.update 16 0).wf = true := by decide
theorem test_present_update : (Instr.update 0 0).present false = false := by decide
theorem test_present_digest : Instr.digest.present false = false := by decide
theorem test_present_final : (Instr.final 0 0 0).present false = true := by decide

/-! ## Decoding: words of 95_test_vectors.md section 3, and bit by bit from 30_encoding.md R48 -/

theorem test_decode_nop_ignored_ones :
    decode true 0xfffffffffffffffffffffffffffffffffffffffffffffffffffffffffffffff0 = .ok .nop := by decide
theorem test_decode_init :
    decode true 0x0000000000000000000000000000000000000000000000050000000000000001 = .ok (.init 5) := by
  decide
/-- P3, command 7. -/
theorem test_decode_block :
    decode true 0x00000000000000006c655e575049423b342d261f18110a030000000000000002 =
      .ok (.block 0x342d261f18110a03 0x6c655e575049423b) := by decide
/-- P3, command 9. -/
theorem test_decode_final :
    decode true 0x0000000000000021000000000000000000000000000000e30000000000000103 =
      .ok (.final 1 0xe3 33) := by decide
/-- TOT, DATA high, DATA low, LEN and OP written apart. -/
theorem test_decode_loadh :
    decode false ((0xffffffffffffffff : Word) ++ (0xfedcba9876543210 : Word) ++ (0x0123456789abcdef : Word) ++
        (0x1fffffffffff : BitVec 51) ++ (0b11111 : BitVec 5) ++ (0xf : BitVec 4) ++ (0x4 : BitVec 4)) =
      .ok (.loadh 0x0123456789abcdef 0xfedcba9876543210) := by decide
/-- P3, command 3. -/
theorem test_decode_update :
    decode true 0x00000000000000009d968f88817a736c655e575049423b340000000000001005 =
      .ok (.update 16 0x9d968f88817a736c655e575049423b34) := by decide
theorem test_decode_digest :
    decode true 0x0000000000000000000000000000000000000000000000000000000000000006 = .ok .digest := by decide
theorem test_decode_op7 :
    decode true 0x0000000000000000000000000000000000000000000000000000000000000007 = .error .badOp := by
  decide
theorem test_decode_op15 :
    decode true 0xffffffffffffffffffffffffffffffffffffffffffffffff0000000000001f0f = .error .badOp := by
  decide
theorem test_decode_final_len16 :
    decode true 0x0000000000000000000000000000000000000000000000000000000000001003 =
      .error .badTailLen := by decide
theorem test_decode_update_len17 :
    decode true 0x0000000000000000000000000000000000000000000000000000000000001105 =
      .error .badChunkLen := by decide
/-- Priority: cause 4 goes before cause 3 (60_exceptions.md R91). -/
theorem test_decode_no_stream :
    decode false 0x0000000000000000000000000000000000000000000000000000000000001405 = .error .noStream := by
  decide
/-- An encoder writes UPDATE's lanes from LEN on as 0 (R50); P2, command 2. -/
theorem test_encode_update_ignored_lanes :
    encode (.update 5 0xffee6f6c6c6568) =
      0x000000000000000000000000000000000000006f6c6c65680000000000000505 := by decide
theorem test_encode_update_empty : encode (.update 0 0xff) = 5 := by decide
theorem test_table_word : decodeTableWord 16 0x1005 = some (.update 16 0) := by decide

/-! ## The pure functions (95_test_vectors.md sections 2.1 to 2.4) -/

theorem test_mixK1_top_bit : mixK1 0x8000000000000000 = 0xc9d164dfc0000000 := by decide
theorem test_mixK2_ones : mixK2 0xffffffffffffffff = 0x4c9a36c55305e8ad := by decide
theorem test_fmix64 : fmix64 0x0000000052dce729 = 0x708778e4f48d2d9a := by decide
theorem test_mixBlock_ones :
    mixBlock 0xffffffffffffffff 0xffffffffffffffff 0xffffffffffffffff 0xffffffffffffffff =
      (0x5afdb6c4e814f338, 0x7765cc27813091de) := by decide
theorem test_mixBlock_mixed :
    mixBlock 0x0123456789abcdef 0xfedcba9876543210 0x8000000000000000 0x0000000000000001 =
      (0xc5d27d2819e7b6ba, 0xafd64d5d7441b3d0) := by decide
theorem test_tailKeys_15 :
    tailKeys (Vector.ofFn fun i => BitVec.ofNat 8 (i.1 + 1)) 15 =
      (0x0807060504030201, 0x000f0e0d0c0b0a09) := by decide
theorem test_finalize_8 :
    finalize 0 0 (Vector.replicate 15 0xff) 8 8 = (0xa0e4b27a1abaed73, 0x692112c96b4a46af) := by decide
theorem test_finalize_9 :
    finalize 0 0 (Vector.replicate 15 0xff) 9 9 = (0xaf8b4e33fb206352, 0x73fdb0383892c275) := by decide
/-- The known answer of 93_implementation_defined.md G2 (and P1): two blocks and an 11-byte tail. -/
theorem test_oneShot_quick_brown_fox :
    oneShot 0 ("The quick brown fox jumps over the lazy dog".toList.map fun c => BitVec.ofNat 8 c.toNat) =
      (0xe34bbc7bbc071b6c, 0x7a433ca9c49a9347) := by decide
/-- 95_test_vectors.md section 1.3. -/
theorem test_oneShot_seed42 : oneShot 0x2a [] = (0xf02aa77dfa1b8523, 0xd1016610da11cbb9) := by decide

/-! ## One step per command (95_test_vectors.md sections 2.5 to 2.9) -/

theorem test_nop :
    nextIs (feedWord State.reset
      0xfffffffffffffffffffffffffffffffffffffffffffffffffffffffffffffff0) (shows 0 0 0 0 0 0x0004) = true := by
  decide
theorem test_init :
    nextIs (feedWord State.reset 0x0000000000000000000000000000000000000000ffffffff0000000000000001)
      (shows 0x00000000ffffffff 0x00000000ffffffff 0 0 0 0x0004) = true := by decide
theorem test_init_clears_stream :
    nextIs (exec (.init 3) (fed 2)) (shows 3 3 0 0 0 0x0004) = true := by decide
theorem test_block :
    nextIs (feedWord State.reset 0x0000000000000000100f0e0d0c0b0a0908070605040302010000000000000002)
      (shows 0x178124fd7f939672 0x561de10afd457487 0 0 0 0x0004) = true := by decide
/-- P5, command 2, HAS_STREAM = 0. -/
theorem test_block_no_stream :
    nextIs (feedWord { noStream with h1 := 2, h2 := 2 }
      0x00000000000000000f0e0d0c0b0a090807060504030201000000000000000002)
      (shows 0xdcac505e55c458e9 0x72927c4f5244045f 0 0 0 0x0000) = true := by decide
theorem test_final :
    nextIs (exec (.final 3 0x030201 3) State.reset)
      (shows 0 0 0x1a643eef0e1337a9 0x494e4a403c239a65 0 0x0004) = true := by decide
theorem test_final_ones :
    nextIs (exec (.final 15 0xffffffffffffffffffffffffffffff 0xffffffffffffffff)
        { State.reset with h1 := 0xffffffffffffffff, h2 := 0xffffffffffffffff })
      (shows 0xffffffffffffffff 0xffffffffffffffff 0xf99cd99b1bd270de 0x8dc403e3c187b069 0 0x0004) =
      true := by decide
theorem test_loadh :
    nextIs (feedWord (fed 2) 0x0000000000000000000000000000000200000000000000010000000000000004)
      (shows 1 2 0 0 2 0x2204) = true := by decide
/-- Section 2.6, row 4: the chunk brings the pending count to exactly 16. -/
theorem test_update_completes_block :
    nextIs (exec (.update 1 0xaf) (fed 15)) (fun t => decide (t.h1 = 0x521b7ac9f91bb8ce) &&
      decide (t.stream.map StreamRegs.window = some ((fedBytes 16).drop 1)) &&
      decide (t.stream.map (·.bufcnt) = some 0)) = true := by decide
/-- P3, command 3: 16 bytes at offset 7. -/
theorem test_update_crosses_block :
    nextIs (exec (.update 16 0x9d968f88817a736c655e575049423b34)
        { State.reset with
          h1 := 1, h2 := 1,
          stream := some (takeChunk (1, 1) StreamRegs.reset (lane (0x2d261f18110a03 : Data)) 7).2 })
      (shows 0x01c02c9fb8728a1b 0x8f1a190b7a90dda8 0 0 23 0xf704) = true := by decide
/-- P2, command 5: the digest of "hello world". -/
theorem test_digest :
    nextIs (exec .digest
        { State.reset with
          stream := some (takeChunk (0, 0) StreamRegs.reset (lane (0x646c726f77206f6c6c6568 : Data)) 11).2 })
      (shows 0 0 0x533f6046eb7f610e 0xab97467d60eb63b1 11 0xbb04) = true := by decide
theorem test_digest_empty :
    nextIs (exec .digest { State.reset with h1 := 1, h2 := 1 })
      (shows 1 1 0x4610abe56eff5cb5 0x51622daa78f83583 0 0x0004) = true := by decide
theorem test_malformed_op7 :
    nextIs (feedWord (fed 2) 7) (shows 0 0 0 0 2 0x2216) = true := by decide
theorem test_malformed_final :
    nextIs (feedWord (fed 2) 0x1003) (shows 0 0 0 0 2 0x2226) = true := by decide
theorem test_malformed_update :
    nextIs (feedWord State.reset 0x1105) (shows 0 0 0 0 0 0x0036) = true := by decide
theorem test_malformed_no_stream :
    nextIs (feedWord noStream 6) (shows 0 0 0 0 0 0x0042) = true := by decide
/-- The first cause is kept (60_exceptions.md R94). -/
theorem test_malformed_again :
    nextIs (feedWord { State.reset with err := true, ecause := 1 } 0x1f03) (shows 0 0 0 0 0 0x0016) =
      true := by decide
theorem test_status_reset_no_stream : noStream.outputs.status_o = 0x0000 := by decide

/-! ## The edge (70_reset_and_hazards.md R104, R107, R108) -/

/-- A step runs the word withFetchWord places, whatever was in flight. -/
theorem test_fetch :
    nextIs (step ({ State.reset with busy := 5 }.withFetchWord 16 0x0001)) (fun t => t.index == 1) = true := by
  decide
theorem test_reset_abandons :
    nextIs (step (resetting { State.reset with h1 := 7, busy := 2, err := true }))
      (fun t => decide (t.h1 = 0 ∧ t.busy = 0 ∧ t.err = false ∧ t.index = 0)) = true := by decide
theorem test_latency_three :
    nextIs (feedWord slow 1) (fun t => decide (t.busy = 2 ∧ t.outputs.cmd_ready = false)) = true := by
  decide
theorem test_busy_refuses :
    nextIs (step { offering State.reset 1 with busy := 1 })
      (fun t => decide (t.busy = 0 ∧ t.index = 0)) = true := by decide

/-! ## The assembler (30_encoding.md R57; words of 95_test_vectors.md section 3) -/

/-- P2, command 4. -/
theorem test_asm_update :
    assemble "UPDATE x\"20 776f72 6c64\" ; world" =
      some [0x000000000000000000000000000000000000646c726f77200000000000000605] := by decide
/-- P3, command 9. -/
theorem test_asm_final :
    assemble "FINAL x\"e3\", 33" =
      some [0x0000000000000021000000000000000000000000000000e30000000000000103] := by decide
/-- Spaces around the pairs are the model's choice (log 13). -/
theorem test_asm_spaces_around_pairs : assemble "UPDATE x\" 6f 6b \"" = assemble "UPDATE x\"6f6b\"" := by decide
theorem test_asm_wrong_length : assemble "BLOCK x\"00\"" = none := by decide
theorem test_asm_feed :
    (assemble "FEED x\"303132333435363738393a3b3c3d3e3f40414243\"").map List.length = some 2 := by decide
theorem test_asm_feed_empty : assemble "FEED x\"\"" = some [] := by decide

/-! ## Witnesses: concrete values that meet the hypotheses of each obligation -/

theorem witness_ResetLeavesEveryRegisterZero :
    (State.resetOf Build.singleCycle).stream = some StreamRegs.reset ∧ 15 < 16 ∧ 14 < 15 ∧
      (resetting State.reset).headPins.rst = true := by decide

theorem witness_ResetEdgeOverridesEverything :
    (resetting (fed 15)).pins = [⟨true, true, 1⟩] ∧ (⟨true, true, 1⟩ : Pins).rst = true := by decide

theorem witness_ResetIsInitZeroWithLatchAndErrorCleared :
    ∃ u, exec (.init 0) { fed 15 with h1 := 3, d1 := 4, err := true, ecause := 2 } = .next u := ⟨_, rfl⟩

theorem witness_RotationMovesBits : (1 ≤ 1 ∧ 1 ≤ 63 ∧ 0 < 64) ∧ 1 ≤ 63 ∧ 63 ≤ 63 ∧ 63 < 64 := by decide

theorem witness_MixerFunctionsAreBijections :
    mulC1 ∈ [mulC1, mulC2, mulF1, mulF2] ∧ 1 ≤ 63 ∧ mixBlock 0 0 0 0 = (0x52dce729, 0x1d699de82) := by decide

theorem witness_TailFoldGatesAreUnobservable : (8 : BitVec 4).toNat < 9 ∧ (0 : BitVec 4) = 0 := by decide

theorem witness_DecodeEncodeRoundTrip :
    (Instr.final 15 1 2).wf = true ∧ (Instr.final 15 1 2).present false = true ∧
      (Instr.update 16 3).wf = true ∧ (Instr.update 16 3).present true = true ∧
      (Instr.update 16 3).present (fed 3).hasStream = true ∧
      (15 : BitVec 5).toNat ≤ 15 ∧ 15 < 16 ∧ lane (0xff : Data) 15 = 0 := by decide

theorem witness_DecodedCommandIsWellFormed : decode true 0x1005 = .ok (.update 16 0) := by decide

theorem witness_DecoderReadsTheFields :
    (0xf0 : Cmd).extractLsb' 0 4 = 0x0 ∧ (0xf1 : Cmd).extractLsb' 0 4 = 0x1 ∧
      (0xf2 : Cmd).extractLsb' 0 4 = 0x2 ∧
      ((0x0f03 : Cmd).extractLsb' 0 4 = 0x3 ∧ (0x0f03 : Cmd)[12] = false) ∧
      ((0x1003 : Cmd).extractLsb' 0 4 = 0x3 ∧ (0x1003 : Cmd)[12] = true) ∧
      (0xf4 : Cmd).extractLsb' 0 4 = 0x4 ∧
      ((0x1005 : Cmd).extractLsb' 0 4 = 0x5 ∧ ((0x1005 : Cmd).extractLsb' 8 5).toNat ≤ 16) ∧
      ((0x1105 : Cmd).extractLsb' 0 4 = 0x5 ∧ ¬((0x1105 : Cmd).extractLsb' 8 5).toNat ≤ 16) ∧
      (0xf6 : Cmd).extractLsb' 0 4 = 0x6 ∧
      7 ≤ ((0x7 : Cmd).extractLsb' 0 4).toNat ∧ 7 ≤ ((0xf : Cmd).extractLsb' 0 4).toNat := by decide

/-- The clauses of an encoded word's ignored fields. -/
theorem witness_IgnoredBitsHaveNoEffect_encoder :
    (cmdOp (encode (.update 16 1)) ≠ 3) ∧
      (cmdOp (encode (.block 1 2)) ≠ 3 ∧ cmdOp (encode (.block 1 2)) ≠ 5) ∧ cmdOp (encode .nop) = 0 ∧
      cmdOp (encode .digest) = 6 ∧ cmdOp (encode (.init 1)) = 1 ∧ cmdOp (encode (.final 1 1 1)) = 3 ∧
      (cmdOp (encode (.update 15 1)) = 5 ∧ (cmdLen (encode (.update 15 1))).toNat ≤ 15 ∧ 15 < 16) := by
  decide

/-- Two different words for each clause, at the boundary lengths 15 of FINAL and 16 of UPDATE. -/
theorem witness_IgnoredBitsHaveNoEffect :
    (cmdOp 0x17 = cmdOp 0x07 ∧ decode true 0x17 = .error .badOp) ∧
      (cmdOp 0xf2 = cmdOp 0x02 ∧ cmdLen 0xf2 = cmdLen 0x02 ∧ cmdData 0xf2 = cmdData 0x02 ∧
        cmdTot 0xf2 = cmdTot 0x02) ∧
      (cmdOp 0xf0 = 0 ∧ cmdOp 0xf6 = 6) ∧
      (cmdOp 0x1f01 = 1 ∧ (cmdData 0x1f01).extractLsb' 0 32 = (cmdData 0x01).extractLsb' 0 32) ∧
      (cmdOp 0x1f02 = 2 ∧ cmdData 0x1f02 = cmdData 0x02 ∧ cmdOp 0x1f04 = 4) ∧
      (cmdOp 0x0f13 = 3 ∧ cmdLen 0x0f13 = cmdLen 0x0f03 ∧ cmdTot 0x0f13 = cmdTot 0x0f03 ∧
        ∀ i, i < (cmdLen 0x0f13).toNat % 16 → lane (cmdData 0x0f13) i = lane (cmdData 0x0f03) i) ∧
      (cmdOp 0x1015 = 5 ∧ cmdLen 0x1015 = cmdLen 0x1005 ∧
        ∀ i, i < (cmdLen 0x1015).toNat → lane (cmdData 0x1015) i = lane (cmdData 0x1005) i) := by decide

theorem witness_ExactlyTheseWordsAreMalformed :
    7 ≤ (cmdOp 0x7).toNat ∧ (cmdOp 0x1003 = 3 ∧ (cmdLen 0x1003)[4] = true) ∧
      (cmdOp 0x1105 = 5 ∧ 17 ≤ (cmdLen 0x1105).toNat) ∧ cmdOp 0x6 = 6 ∧
      decode (fed 2).hasStream 0x1105 = .error .badChunkLen := by decide

theorem witness_TableRowsMatchTheDecoder :
    (⟨"DIGEST", 0x0006, 0x000F, none, true⟩ : OpRow) ∈ opTable ∧
      (0xf6 : Cmd).extractLsb' 0 16 &&& (0x000F : BitVec 16) = 0x0006 := by decide

theorem witness_NopOnlyTakesItsPlace : cmdOp 0xf0 = 0 := by decide
theorem witness_InitLoadsTheSeed : cmdOp 0xf1 = 1 := by decide
theorem witness_LoadhWritesThePair : cmdOp 0xf4 = 4 := by decide
theorem witness_BlockMixesThePair : cmdOp 0xf2 = 2 := by decide

theorem witness_FinalLatchesTheDigest :
    (15 : BitVec 5)[4] = false ∧ (16 : BitVec 5)[4] = true ∧ cmdOp 0x1003 = 3 := by decide

theorem witness_UpdateAbsorbsTheChunk :
    (fed 15).stream = some (fedRegs 15) ∧ (16 : BitVec 5).toNat ≤ 16 := by decide

/-- Its three clauses at their boundaries: 14 + 1, 15 + 1 and 0 + 16 bytes. -/
theorem witness_UpdateKeepsUnwrittenBufferBytes :
    ((fed 14).stream = some (fedRegs 14) ∧ 15 < 16 ∧ (fedRegs 14).bufcnt.toNat + (1 : BitVec 5).toNat < 16) ∧
      (16 ≤ (fedRegs 15).bufcnt.toNat + (1 : BitVec 5).toNat ∧ (fedRegs 15).bufcnt ≠ 0) ∧
      (16 ≤ (fedRegs 0).bufcnt.toNat + (16 : BitVec 5).toNat ∧ (fedRegs 0).bufcnt = 0) ∧
      nextIs (exec (.update 1 0) (fed 14)) (fun _ => true) = true := by decide

theorem witness_TailWindowKeepsTheLastFifteen : 16 ≤ 16 := by decide
theorem witness_EmptyUpdateIsANoOp : (fed 5).hasStream = true := by decide

theorem witness_StreamCommandsRaiseCmdError :
    noStream.hasStream = false ∧ State.reset.hasStream = true ∧ 17 ≤ (17 : BitVec 5).toNat := by decide

theorem witness_StreamCoherent : StreamCoherent (fedRegs 15) := by
  unfold StreamCoherent; decide

theorem witness_DigestFinalizesASnapshot :
    noStream.stream = none ∧ (fed 15).stream = some (fedRegs 15) ∧ StreamCoherent (fedRegs 15) ∧
      14 < (fedRegs 15).total.toNat % 16 := by unfold StreamCoherent; decide

theorem witness_DigestTailMayComeFromTheBuffer :
    (fed 15).stream = some (fedRegs 15) ∧ StreamCoherent (fedRegs 15) := by unfold StreamCoherent; decide

theorem witness_DigestCompletesEverywhere : (fed 15).hasStream = true := by decide

/-- Two states that differ in D1 and in BUF only, the steps of the other clauses, and a following UPDATE. -/
theorem witness_DigestIsNonDestructive :
    (fed 3).hasStream = true ∧ (fed 3).stream = some (fedRegs 3) ∧
      { fed 3 with d1 := 1 }.stream = some (fedRegs 3) ∧
      (∃ t, exec .digest (fed 3) = .next t ∧ (∃ u, exec .digest t = .next u) ∧
        ∃ u, exec (.update 16 7) t = .next u) ∧ ∃ v, exec (.update 16 7) (fed 3) = .next v :=
  ⟨by decide, by decide, by decide, ⟨_, rfl, ⟨_, rfl⟩, ⟨_, rfl⟩⟩, ⟨_, rfl⟩⟩

theorem witness_OnlyTheListedCommandsWrite :
    writesAcc (.final 1 2 3) = false ∧ writesDigest (.update 16 7) = false ∧
      writesStream (.block 1 2) = false ∧ (Instr.update 16 7).wf = true ∧
      (Instr.update 16 7).present (fed 3).hasStream = true ∧
      nextIs (exec (.update 16 7) (fed 3)) (fun _ => true) = true := by decide

theorem witness_DecodeBeforeWrite :
    nextIs (accept 0x1105 (fed 3)) (fun _ => true) = true ∧
      decode (fed 3).hasStream 0x1105 = .error .badChunkLen ∧
      decode (fed 3).hasStream 0x1005 = .ok (.update 16 0) := by decide

theorem witness_MalformedWordSetsErr :
    decode State.reset.hasStream 0x1003 = .error .badTailLen ∧ State.reset.err = false ∧
      { State.reset with err := true }.err = true := by decide

theorem witness_ErrIsStickyUntilReset :
    { offering State.reset 0x7 with err := true, ecause := 2 }.err = true ∧
      (offering State.reset 0x7).headPins.rst = false ∧ (resetting State.reset).headPins.rst = true ∧
      nextIs (step { offering State.reset 0x7 with err := true, ecause := 2 }) (fun _ => true) = true ∧
      nextIs (step (resetting State.reset)) (fun _ => true) = true ∧
      nextIs (exec (.init 1) State.reset) (fun _ => true) = true := by decide

theorem witness_ErrInfluencesNothingElse :
    nextIs (accept 0x1005 (fed 3)) (fun _ => true) = true ∧
      nextIs (accept 0x1005 { fed 3 with err := true, ecause := 1 }) (fun _ => true) = true := by decide

theorem witness_ResultsDoNotDependOnTheClock :
    nextIs (exec (.update 16 7) (fed 3)) (fun _ => true) = true := by decide

theorem witness_StepRunsTheDecodedCommand :
    (offering (fed 3) 0x1005).pins = [Pins.offer 0x1005] ∧ (Pins.offer 0x1005).rst = false ∧
      (Pins.offer 0x1005).valid = true ∧ (offering (fed 3) 0x1005).busy = 0 ∧
      decode (offering (fed 3) 0x1005).hasStream (Pins.offer 0x1005).cmd = .ok (.update 16 0) := by decide

theorem witness_IndexCountsAcceptedCommands :
    nextIs (step (offering (fed 3) 0x1005)) (fun _ => true) = true ∧
      (offering (fed 3) 0x1005).accepts = true ∧ State.reset.accepts = false := by decide

/-- Busy with a command offered, and idle. -/
theorem witness_IdleEdgeHoldsTheRegisters :
    { offering State.reset 0 with busy := 1 }.headPins.rst = false ∧
      { offering State.reset 0 with busy := 1 }.accepts = false ∧ State.reset.headPins.rst = false ∧
      State.reset.accepts = false := by decide

theorem witness_EveryCommandTerminates : { offering State.reset 0 with busy := 2 }.noReset 2 := by
  unfold State.noReset; decide

/-- At the first and at the last of the three cycles, and in the cycle after reset. -/
theorem witness_ReadyReturnsAfterTheLatency :
    slow.lat.wf = true ∧ (offering slow 0x1105).accepts = true ∧ 1 ≤ 1 ∧
      3 ≤ latencyOf slow.build (offering slow 0x1105).headPins.cmd ∧ (offering slow 0x1105).noReset 3 ∧
      (resetting slow).headPins.rst = true ∧
      nextIs (step (resetting slow)) (fun t => !t.headPins.rst) = true ∧
      nextIs (Host.Core.run Sys2Proof.core 1 (offering slow 0x1105)) (fun t => !t.headPins.rst) = true ∧
      nextIs (Host.Core.run Sys2Proof.core 3 (offering slow 0x1105)) (fun t => !t.headPins.rst) = true := by
  unfold State.noReset; decide

/-- Two commands, the second offered again while the first runs. -/
theorem witness_EdgesRefineTheCommandSequence :
    { slow with pins := [Pins.offer 1, Pins.offer 2, Pins.offer 2, Pins.offer 2] }.noReset 4 ∧
      acceptedIn 4 { slow with pins := [Pins.offer 1, Pins.offer 2, Pins.offer 2, Pins.offer 2] } = [1, 2] := by
  unfold State.noReset; decide

theorem witness_PortsShowTheRegisters :
    (fed 3).ready = true ∧ (fed 3).stream = some (fedRegs 3) ∧ noStream.ready = true ∧
      noStream.hasStream = false := by decide

theorem witness_DigestPortHasD1AboveD2 : (fed 3).ready = true ∧ 15 < 16 := by decide

theorem witness_ObservationReadsTheRegisters :
    (fed 3).ready = true ∧ (fed 3).stream = some (fedRegs 3) ∧ noStream.ready = true ∧
      noStream.stream = none := by decide

/-- The invariant holds of a state that is not the reset state, and a step leaves it. -/
theorem witness_StepKeepsTheInvariant :
    StateInv { offering (fed 15) 0x1005 with err := true, ecause := 4 } ∧
      nextIs (step { offering (fed 15) 0x1005 with err := true, ecause := 4 }) (fun _ => true) = true := by
  refine ⟨⟨by unfold ErrCoherent; decide, ?_⟩, by decide⟩
  intro st h
  cases h
  exact witness_StreamCoherent

theorem witness_StreamTracks : StreamTracks (fedBytes 15) (fedRegs 15) := by
  unfold StreamTracks; decide

/-- Its clauses: a build with the module, INIT, a legal and a malformed word after 15 bytes under seed 0,
and a state whose bytes fed are known. -/
theorem witness_StreamHoldsTheBytesFed :
    Build.singleCycle.hasStream = true ∧
      ((fed 15).hasStream = true ∧ decode true 0x1 = .ok (.init 0) ∧
        nextIs (accept 0x1 (fed 15)) (fun _ => true) = true) ∧
      ((fed 15).stream = some (fedRegs 15) ∧ StreamTracks (fedBytes 15) (fedRegs 15) ∧
        AccTracks 0 (fedBytes 15) (fed 15) ∧ nextIs (accept 0x1005 (fed 15)) (fun _ => true) = true ∧
        decode true 0x1005 = .ok (.update 16 0) ∧ keepsStream (.update 16 0) = true) ∧
      (nextIs (accept 0x1105 (fed 15)) (fun _ => true) = true ∧
        decode true 0x1105 = .error .badChunkLen) ∧
      (fedBytes 15).length < 2 ^ 64 := by
  unfold StreamTracks AccTracks; decide

/-- Two different states that differ in hidden bytes only. -/
theorem witness_HiddenBytesAreInvisible :
    HiddenEq (offering (fed 3) 0x1005) (offering (fedHidden 3) 0x1005) ∧
      offering (fed 3) 0x1005 ≠ offering (fedHidden 3) 0x1005 ∧
      nextIs (step (offering (fed 3) 0x1005)) (fun _ => true) = true ∧
      nextIs (step (offering (fedHidden 3) 0x1005)) (fun _ => true) = true := by
  unfold HiddenEq; decide

theorem witness_OneShotProgramComputesOneShot : (fedBytes 17).length < 2 ^ 64 :=
  by rw [show (fedBytes 17).length = 17 from by decide]; norm_num

/-- P2's commands 2 to 7 between INIT and DIGEST, a DIGEST and a NOP among them. -/
theorem witness_StreamEqualsOneShot :
    (fed 3).hasStream = true ∧ decode true 0x0000000000000001 = .ok (.init 0) ∧
      decode true 0x6 = .ok .digest ∧
      (∀ w ∈ ([0x6f6c6c65680000000000000505, 0x5, 0x0, 0x6, 0x646c726f77200000000000000605] : List Cmd),
        streamWord w = true) ∧
      (fedBy [0x6f6c6c65680000000000000505, 0x5, 0x0, 0x6, 0x646c726f77200000000000000605]).length < 2 ^ 64 ∧
      fedBy [0x6f6c6c65680000000000000505, 0x5, 0x0, 0x6, 0x646c726f77200000000000000605] =
        [0x68, 0x65, 0x6c, 0x6c, 0x6f, 0x20, 0x77, 0x6f, 0x72, 0x6c, 0x64] :=
  ⟨by decide, by decide, by decide, List.all_eq_true.mp (by decide), by decide, by decide⟩

theorem witness_StreamProgramComputesOneShot :
    (fed 3).hasStream = true ∧ (fedBytes 17).length < 2 ^ 64 :=
  ⟨by decide, by rw [show (fedBytes 17).length = 17 from by decide]; norm_num⟩

theorem witness_ResetCorrectness :
    decode (fed 3).hasStream 0x1 = .ok (.init 0) ∧
      ∃ w ∈ ([0x1005, 0x1105, 0x6] : List Cmd), digestWord (fed 3).hasStream w = true :=
  ⟨by decide, 0x6, by decide, by decide⟩

/-- The longest FINAL and UPDATE, a BLOCK, and the pseudo-commands. -/
theorem witness_AssemblerEmitsOnlyLegalWords :
    (∃ ws, assembleLine (.final (fedBytes 15) 15) = some ws ∧ ws ≠ []) ∧
      (∃ ws, assembleLine (.update (fedBytes 16)) = some ws ∧ ws ≠ []) ∧
      (∃ ws, assembleLine (.oneShot 1 (fedBytes 17)) = some ws ∧ ws ≠ []) ∧
      ∃ ws, assembleLine (.stream 1 (fedBytes 17)) = some ws ∧ ws ≠ [] :=
  ⟨⟨_, rfl, by decide⟩, ⟨_, rfl, by decide⟩, ⟨_, rfl, by decide⟩, ⟨_, rfl, by decide⟩⟩

end Sys2Proof.Machine.Tests
end

section
/-! Rotation by the shift pair of 00_scope.md R9 is core's `BitVec.rotateLeft`. -/

namespace Sys2Proof.Machine

theorem rotl64_eq_rotateLeft (x : Word) {r : Nat} (hr : r < 64) : rotl64 x r = x.rotateLeft r :=
  (BitVec.rotateLeft_eq_rotateLeftAux_of_lt hr).symm

/-- A bit below `r` comes from the top of x, any other from `r` places below it. -/
theorem getLsbD_rotl64 (x : Word) {r i : Nat} (hr : r < 64) (hi : i < 64) :
    (rotl64 x r).getLsbD i = x.getLsbD ((i + 64 - r) % 64) := by
  rw [rotl64_eq_rotateLeft x hr, BitVec.getLsbD_rotateLeft, Nat.mod_eq_of_lt hr]
  by_cases wraps : i < r
  · have source : (i + 64 - r) % 64 = 64 - r + i := by omega
    simp [wraps, source]
  · have source : (i + 64 - r) % 64 = i - r := by omega
    simp [wraps, source, hi]

/-- Settles O4: the shift pair is the definition of `rotl64`, and its bits are those of core's rotation. -/
theorem rotationMovesBits : Obligations.RotationMovesBits := by
  intro x r i _ hr hi
  exact ⟨rfl, getLsbD_rotl64 x (Nat.lt_succ_of_le hr) hi⟩

end Sys2Proof.Machine
end

section
/-! Byte lists: the last elements of a list that grows at its end, and the bytes an array holds after
a write behind its first ones. -/

namespace Sys2Proof.Machine

theorem lastOf_eq_self {α : Type} {k : Nat} {l : List α} (h : l.length ≤ k) : lastOf k l = l := by
  simp [lastOf, Nat.sub_eq_zero_of_le h]

theorem lastOf_append_of_le_right {α : Type} {k : Nat} (l : List α) {m : List α} (h : k ≤ m.length) :
    lastOf k (l ++ m) = lastOf k m := by
  have skip : (l ++ m).length - k = l.length + (m.length - k) := by
    rw [List.length_append]; omega
  rw [lastOf, skip, List.drop_length_add_append, lastOf]

theorem lastOf_append_of_le_left {α : Type} {k : Nat} {l : List α} (m : List α) (h : k ≤ l.length) :
    lastOf (k + m.length) (l ++ m) = lastOf k l ++ m := by
  have skip : (l ++ m).length - (k + m.length) = l.length - k := by
    rw [List.length_append]; omega
  rw [lastOf, skip, List.drop_append_of_le_length (Nat.sub_le _ _), lastOf]

/-- Of a list that grows, the last `k` elements need only the last `k` of the old ones. -/
theorem lastOf_lastOf_append {α : Type} (k : Nat) (l m : List α) :
    lastOf k (lastOf k l ++ m) = lastOf k (l ++ m) := by
  rcases Nat.le_total l.length k with short | long
  · rw [lastOf_eq_self short]
  · rw [← lastOf_append_of_le_left m long, lastOf_lastOf _ (by rw [List.length_append]; omega)]

/-- The bytes behind the complete blocks are the last `length mod 16`. -/
theorem lastOf_mod (l : List Byte) : lastOf (l.length % 16) l = l.drop (16 * (l.length / 16)) := by
  rw [lastOf]
  congr 1
  omega

theorem seqByte_firstBytes {c : Nat → Byte} {n i : Nat} (h : i < n) : seqByte (firstBytes c n) i = c i := by
  rw [seqByte_of_lt (by simpa using h), getElem_firstBytes]

theorem firstBytes_add (c : Nat → Byte) (m n : Nat) :
    firstBytes c (m + n) = firstBytes c m ++ firstBytes (fun i => c (m + i)) n := by
  simp [firstBytes, List.range_add]

/-- Dropping the first `off` bytes is reading from `off` on. -/
theorem firstBytes_drop (c : Nat → Byte) (n off : Nat) :
    (firstBytes c n).drop off = firstBytes (fun i => c (off + i)) (n - off) :=
  List.ext_getElem (by simp) fun i _ _ => by simp

/-- After a write behind the first `off` bytes the array holds those and then the bytes written. -/
theorem firstBytes_writeBytes {k : Nat} (v : Vector Byte k) {off n : Nat} (src : Nat → Byte)
    (h : off + n ≤ k) :
    firstBytes (byteAt (writeBytes v off n src)) (off + n) =
      firstBytes (byteAt v) off ++ firstBytes src n := by
  rw [firstBytes_add]
  congr 1
  · refine firstBytes_congr fun i hi => ?_
    rw [byteAt_writeBytes _ _ _ _ (by omega), if_neg (by omega)]
  · refine firstBytes_congr fun i hi => ?_
    rw [byteAt_writeBytes _ _ _ _ (by omega), if_pos (by omega), Nat.add_sub_cancel_left]

end Sys2Proof.Machine
end

section
/-! A legal UPDATE (41_streaming_hasher.md R75, R77, R79), as a statement about byte lists. -/

namespace Sys2Proof.Machine

theorem StreamRegs.window_congr {st st' : StreamRegs} (tail : st.tail = st'.tail)
    (tailcnt : st.tailcnt = st'.tailcnt) : st.window = st'.window := by
  rw [StreamRegs.window, StreamRegs.window, tail, tailcnt]

/-! ## The tail window (R77) -/

@[simp] theorem tailUpdate_buf (st : StreamRegs) (c : Nat → Byte) (n : Nat) :
    (tailUpdate st c n).buf = st.buf := by
  simp only [tailUpdate]; split_ifs <;> rfl

@[simp] theorem tailUpdate_bufcnt (st : StreamRegs) (c : Nat → Byte) (n : Nat) :
    (tailUpdate st c n).bufcnt = st.bufcnt := by
  simp only [tailUpdate]; split_ifs <;> rfl

@[simp] theorem tailUpdate_total (st : StreamRegs) (c : Nat → Byte) (n : Nat) :
    (tailUpdate st c n).total = st.total := by
  simp only [tailUpdate]; split_ifs <;> rfl

@[simp] theorem tailUpdate_pending (st : StreamRegs) (c : Nat → Byte) (n : Nat) :
    (tailUpdate st c n).pending = st.pending := by
  simp [StreamRegs.pending]

/-- The window becomes the last 15 of its bytes followed by the chunk. -/
theorem tailUpdate_window (st : StreamRegs) (c : Nat → Byte) (n : Nat) :
    (tailUpdate st c n).window = lastOf 15 (st.window ++ firstBytes c n) := by
  have hcnt : st.tailcnt.toNat < 16 := st.tailcnt.isLt
  simp only [tailUpdate]
  split_ifs with replaced slides
  · calc firstBytes (byteAt (Vector.ofFn fun i : Fin 15 => c (n - 15 + i.1))) 15
        = firstBytes (fun i => c (n - 15 + i)) (n - (n - 15)) := by
          rw [Nat.sub_sub_self replaced]
          exact firstBytes_congr fun i hi => byteAt_ofFn _ hi
      _ = lastOf 15 (firstBytes c n) := by rw [← firstBytes_drop, lastOf, length_firstBytes]
      _ = lastOf 15 (st.window ++ firstBytes c n) :=
          (lastOf_append_of_le_right _ (by simpa using replaced)).symm
  · obtain ⟨keep, hkeep⟩ : ∃ keep, keep + n = 15 := ⟨15 - n, by omega⟩
    have hdrop : st.tailcnt.toNat - (st.tailcnt.toNat + n - 15) = keep := by omega
    have hskip : st.tailcnt.toNat + n - 15 = st.tailcnt.toNat - keep := by omega
    rw [hdrop, hskip]
    calc _ = firstBytes (fun i => byteAt st.tail (st.tailcnt.toNat - keep + i)) keep ++ firstBytes c n := by
          rw [StreamRegs.window, show (15 : BitVec 4).toNat = keep + n from hkeep.symm, firstBytes_add]
          refine congrArg₂ _ (firstBytes_congr fun i hi => ?_) (firstBytes_congr fun i hi => ?_)
          · rw [byteAt_ofFn _ (by omega), if_pos hi]
          · rw [byteAt_ofFn _ (by omega), if_neg (by simp), Nat.add_sub_cancel_left]
      _ = lastOf keep st.window ++ firstBytes c n := by
          rw [lastOf, length_window, StreamRegs.window, firstBytes_drop,
            Nat.sub_sub_self (by omega : keep ≤ st.tailcnt.toNat)]
      _ = lastOf 15 (st.window ++ firstBytes c n) := by
          rw [← lastOf_append_of_le_left _ (by rw [length_window]; omega), length_firstBytes, hkeep]
  · have hcount : (BitVec.ofNat 4 (st.tailcnt.toNat + n)).toNat = st.tailcnt.toNat + n := by
      rw [BitVec.toNat_ofNat]; omega
    rw [lastOf_eq_self (by simp; omega), StreamRegs.window, hcount]
    exact firstBytes_writeBytes _ _ (by omega)

/-! ## The accumulators -/

/-- Mixing 16 bytes is mixing the first block of a sequence that begins with them. -/
theorem mixBytes_eq_mixBlocks_one (h : Word × Word) {b : Nat → Byte} {j : Nat} {l : List Byte}
    (heq : ∀ i, i < 16 → b (j + i) = seqByte l i) : mixBytes h b j = mixBlocks l 1 h := by
  have low : le64 b j = le64 (seqByte l) (16 * 0) :=
    le64_congr fun i hi => by rw [heq i (by omega), Nat.mul_zero, Nat.zero_add]
  have high : le64 b (j + 8) = le64 (seqByte l) (16 * 0 + 8) :=
    le64_congr fun i hi => by rw [Nat.add_assoc, heq (8 + i) (by omega)]
  rw [mixBlocks_succ, mixBytes, mixBytes, low, high, mixBlocks]

/-- Steps 3 to 5 of R79 mix the complete blocks among the chunk's bytes from `off` on. -/
theorem chunkRest_acc (h : Word × Word) (st : StreamRegs) (c : Nat → Byte) {n off : Nat}
    (hlt : n - off < 32) :
    (chunkRest h st c n off).1 = mixBlocks ((firstBytes c n).drop off) ((n - off) / 16) h := by
  simp only [chunkRest, decide_eq_true_eq]
  split_ifs with whole
  · rw [show (n - off) / 16 = 1 by omega]
    refine mixBytes_eq_mixBlocks_one h fun i hi => ?_
    rw [seqByte_drop, seqByte_firstBytes (by omega)]
  · rw [show (n - off) / 16 = 0 by omega, mixBlocks]

/-- They leave the bytes behind those blocks pending. -/
theorem chunkRest_pending (h : Word × Word) (st : StreamRegs) (c : Nat → Byte) {n off : Nat}
    (hlt : n - off < 32) :
    (chunkRest h st c n off).2.pending =
      ((firstBytes c n).drop off).drop (16 * ((n - off) / 16)) := by
  have written (start : Nat) (hrem : n - start < 16) :
      (StreamRegs.pending { st with
        buf := writeBytes st.buf 0 (n - start) fun i => c (start + i),
        bufcnt := BitVec.ofNat 4 (n - start) }) = (firstBytes c n).drop start := by
    have hcount : (BitVec.ofNat 4 (n - start)).toNat = 0 + (n - start) := by
      rw [BitVec.toNat_ofNat]; omega
    rw [StreamRegs.pending, hcount, firstBytes_writeBytes _ _ (by omega), firstBytes_drop,
      firstBytes_zero, List.nil_append]
  simp only [chunkRest, decide_eq_true_eq, tailUpdate_pending, List.drop_drop]
  split_ifs with whole
  · rw [written _ (by omega), show (n - off) / 16 = 1 by omega]
  · rw [written _ (by omega), show (n - off) / 16 = 0 by omega]
    rfl

theorem chunkRest_window (h : Word × Word) (st : StreamRegs) (c : Nat → Byte) (n off : Nat) :
    (chunkRest h st c n off).2.window = lastOf 15 (st.window ++ firstBytes c n) := by
  simp only [chunkRest, tailUpdate_window]
  exact congrArg (fun w => lastOf 15 (w ++ firstBytes c n)) (StreamRegs.window_congr rfl rfl)

theorem chunkRest_total (h : Word × Word) (st : StreamRegs) (c : Nat → Byte) (n off : Nat) :
    (chunkRest h st c n off).2.total = st.total := by
  simp only [chunkRest, tailUpdate_total]

/-! ## A legal UPDATE as a whole -/

/-- What absorbing `bytes` from the pair `h` and the stream registers `st` must give (R75). BUFCNT and
TAILCNT are the lengths of the pending bytes and of the window. -/
structure Absorbed (h : Word × Word) (st : StreamRegs) (bytes : List Byte)
    (r : (Word × Word) × StreamRegs) : Prop where
  acc : r.1 = mixBlocks (st.pending ++ bytes) ((st.pending ++ bytes).length / 16) h
  pending : r.2.pending = (st.pending ++ bytes).drop (16 * ((st.pending ++ bytes).length / 16))
  window : r.2.window = lastOf 15 (st.window ++ bytes)
  total : r.2.total = st.total + BitVec.ofNat 64 bytes.length

/-- Once the first `m` blocks are mixed, the steps from the chunk's byte `off` on absorb the rest. -/
theorem chunkRest_absorbed {h g : Word × Word} {st st' : StreamRegs} {c : Nat → Byte} {n off m : Nat}
    (hlt : n - off < 32) (hlen : st.bufcnt.toNat + n = 16 * m + (n - off))
    (rest : (st.pending ++ firstBytes c n).drop (16 * m) = (firstBytes c n).drop off)
    (acc : g = mixBlocks (st.pending ++ firstBytes c n) m h) (window : st'.window = st.window)
    (total : st'.total = st.total + BitVec.ofNat 64 n) :
    Absorbed h st (firstBytes c n) (chunkRest g st' c n off) := by
  have blocks : (st.pending ++ firstBytes c n).length / 16 = m + (n - off) / 16 := by
    simp only [List.length_append, length_pending, length_firstBytes]
    omega
  constructor
  · rw [chunkRest_acc _ _ _ hlt, blocks, mixBlocks_add, rest, acc]
  · rw [chunkRest_pending _ _ _ hlt, blocks, Nat.mul_add, ← List.drop_drop, rest]
  · rw [chunkRest_window, window]
  · rw [chunkRest_total, total, length_firstBytes]

/-- A legal UPDATE absorbs its chunk. -/
theorem takeChunk_absorbed (h : Word × Word) (st : StreamRegs) (c : Nat → Byte) {n : Nat} (hn : n ≤ 16) :
    Absorbed h st (firstBytes c n) (takeChunk h st c n) := by
  have hcnt : st.bufcnt.toNat < 16 := st.bufcnt.isLt
  simp only [takeChunk]
  split_ifs with some_pending fills
  · obtain ⟨need, hneed⟩ : ∃ need, st.bufcnt.toNat + need = 16 := ⟨16 - st.bufcnt.toNat, by omega⟩
    rw [show 16 - st.bufcnt.toNat = need by omega]
    have front := firstBytes_writeBytes st.buf c (Nat.le_of_eq hneed)
    rw [hneed] at front
    have split_all : st.pending ++ firstBytes c n =
        firstBytes (byteAt (writeBytes st.buf st.bufcnt.toNat need c)) 16 ++
          (firstBytes c n).drop need := by
      rw [StreamRegs.pending, front, List.append_assoc, firstBytes_drop, ← firstBytes_add,
        Nat.add_sub_cancel' (by omega : need ≤ n)]
    refine chunkRest_absorbed (m := 1) (by omega) (by omega) ?_ ?_ (StreamRegs.window_congr rfl rfl) rfl
    · rw [split_all, List.drop_left' (by simp)]
    · refine mixBytes_eq_mixBlocks_one h fun i hi => ?_
      rw [split_all, seqByte_append_left (by simpa using hi), seqByte_firstBytes hi, Nat.zero_add]
  · have hcount : (BitVec.ofNat 4 (st.bufcnt.toNat + n)).toNat = st.bufcnt.toNat + n := by
      rw [BitVec.toNat_ofNat]; omega
    have blocks : (st.pending ++ firstBytes c n).length / 16 = 0 := by
      simp only [List.length_append, length_pending, length_firstBytes]
      omega
    constructor
    · rw [blocks, mixBlocks]
    · rw [blocks, tailUpdate_pending, StreamRegs.pending, hcount, firstBytes_writeBytes _ _ (by omega),
        StreamRegs.pending, Nat.mul_zero, List.drop_zero]
    · rw [tailUpdate_window]
      exact congrArg (fun w => lastOf 15 (w ++ firstBytes c n)) (StreamRegs.window_congr rfl rfl)
    · rw [tailUpdate_total, length_firstBytes]
  · have empty : st.pending = [] := by
      rw [← List.length_eq_zero_iff, length_pending]; omega
    exact chunkRest_absorbed (m := 0) (by omega) (by omega) (by rw [empty]; rfl) (by rw [mixBlocks])
      (StreamRegs.window_congr rfl rfl) rfl

end Sys2Proof.Machine
end

section
/-! A command's effect is a function of the registers: what it writes, and that it reads nothing else of
the state (10_state.md R13, R17, R26). -/

namespace Sys2Proof.Machine

/-! ## The commands that can raise CmdError, as equations -/

theorem exec_final_bad {len : BitVec 5} (tail : BitVec 120) (total : Word) (s : State)
    (hl : len[4] = true) : exec (.final len tail total) s = .next (cmdError .badTailLen s) := by
  rw [exec, execFinal, if_pos hl]

theorem exec_final_legal {len : BitVec 5} (tail : BitVec 120) (total : Word) (s : State)
    (hl : len[4] = false) :
    exec (.final len tail total) s =
      .next ((s.setDigest (finalize s.h1 s.h2 (tailBytes tail) (tailLen len) total)).occupy
        s.lat.final) := by
  rw [exec, execFinal, if_neg (by simp [hl])]

theorem exec_update_absent (len : BitVec 5) (chunk : Data) {s : State} (hs : s.stream = none) :
    exec (.update len chunk) s = .next (cmdError .noStream s) := by
  simp only [exec, execUpdate, hs]

theorem exec_update_tooLong {len : BitVec 5} (chunk : Data) {s : State} {st : StreamRegs}
    (hs : s.stream = some st) (hl : 16 < len.toNat) :
    exec (.update len chunk) s = .next (cmdError .badChunkLen s) := by
  simp only [exec, execUpdate, hs]
  rw [if_pos hl]

theorem exec_digest_absent {s : State} (hs : s.stream = none) :
    exec .digest s = .next (cmdError .noStream s) := by
  simp only [exec, execDigest, hs]

theorem exec_digest_present {s : State} {st : StreamRegs} (hs : s.stream = some st) :
    exec .digest s =
      .next ((s.setDigest (finalize s.h1 s.h2 (digestTail st) (digestTailLen st) st.total)).occupy
        s.lat.digest) := by
  simp only [exec, execDigest, hs]

/-! ## Effects -/

/-- What a legal command leaves in the registers it may write, and the cycles it stays in flight. -/
structure Written where
  acc : Word × Word
  digest : Word × Word
  stream : Option StreamRegs
  busy : Nat

/-- The state after an effect: CmdError, or the registers written. -/
def State.write (s : State) : Except Malformed Written → State
  | .error m => cmdError m s
  | .ok w =>
    { s with h1 := w.acc.1, h2 := w.acc.2, d1 := w.digest.1, d2 := w.digest.2, stream := w.stream,
             busy := w.busy }

/-- The effects a command may have in the state `s`: CmdError only where it is malformed, and no register
written but those of R13's column "written by". -/
inductive Permitted (i : Instr) (s : State) : Except Malformed Written → Prop
  | error (m : Malformed) (illegal : ¬(i.wf = true ∧ i.present s.hasStream = true)) :
    Permitted i s (.error m)
  | ok (w : Written) (acc : writesAcc i = false → w.acc = (s.h1, s.h2))
    (digest : writesDigest i = false → w.digest = (s.d1, s.d2))
    (stream : writesStream i = false → w.stream = s.stream)
    (present : w.stream.isSome = s.stream.isSome) : Permitted i s (.ok w)

/-- `s'` has the registers of `s`, but for ERR, ECAUSE and BUSY, and its latencies. -/
structure SameRegs (s s' : State) : Prop where
  h1 : s'.h1 = s.h1
  h2 : s'.h2 = s.h2
  d1 : s'.d1 = s.d1
  d2 : s'.d2 = s.d2
  stream : s'.stream = s.stream
  lat : s'.lat = s.lat

theorem SameRegs.refl (s : State) : SameRegs s s := ⟨rfl, rfl, rfl, rfl, rfl, rfl⟩

/-- A command has one permitted effect in all states with the same registers. -/
theorem exec_effect (i : Instr) (s : State) :
    ∃ e, Permitted i s e ∧ ∀ s', SameRegs s s' → exec i s' = .next (s'.write e) := by
  cases i with
  | nop =>
    refine ⟨.ok ⟨(s.h1, s.h2), (s.d1, s.d2), s.stream, s.lat.nop - 1⟩,
      .ok _ (fun _ => rfl) (fun _ => rfl) (fun _ => rfl) rfl,
      fun s' ⟨h1, h2, d1, d2, stream, lat⟩ => ?_⟩
    simp [exec_nop, State.occupy, State.write, *]
  | init seed =>
    refine ⟨.ok ⟨(seedWord seed, seedWord seed), (s.d1, s.d2), s.stream.map fun _ => StreamRegs.reset,
      s.lat.init - 1⟩, .ok _ nofun (fun _ => rfl) nofun Option.isSome_map,
      fun s' ⟨h1, h2, d1, d2, stream, lat⟩ => ?_⟩
    simp [exec_init, State.setAcc_clearStream_occupy, State.write, *]
  | block k1 k2 =>
    refine ⟨.ok ⟨mixBlock s.h1 s.h2 k1 k2, (s.d1, s.d2), s.stream, s.lat.block - 1⟩,
      .ok _ nofun (fun _ => rfl) (fun _ => rfl) rfl, fun s' ⟨h1, h2, d1, d2, stream, lat⟩ => ?_⟩
    simp [exec_block, State.setAcc_occupy, State.write, *]
  | final len tail total =>
    cases hl : len[4] with
    | true =>
      refine ⟨.error .badTailLen, .error _ (by simp [Instr.wf, hl]), fun s' same => ?_⟩
      rw [exec_final_bad tail total s' hl, State.write]
    | false =>
      refine ⟨.ok ⟨(s.h1, s.h2), finalize s.h1 s.h2 (tailBytes tail) (tailLen len) total, s.stream,
        s.lat.final - 1⟩, .ok _ (fun _ => rfl) nofun (fun _ => rfl) rfl,
        fun s' ⟨h1, h2, d1, d2, stream, lat⟩ => ?_⟩
      simp [exec_final_legal tail total s' hl, State.setDigest_occupy, State.write, *]
  | loadh a b =>
    refine ⟨.ok ⟨(a, b), (s.d1, s.d2), s.stream, s.lat.loadh - 1⟩,
      .ok _ nofun (fun _ => rfl) (fun _ => rfl) rfl, fun s' ⟨h1, h2, d1, d2, stream, lat⟩ => ?_⟩
    simp [exec_loadh, State.setAcc_occupy, State.write, *]
  | update len chunk =>
    cases hs : s.stream with
    | none =>
      refine ⟨.error .noStream, .error _ ?_, fun s' same => ?_⟩
      · simp [Instr.present, State.hasStream_of_none hs]
      · rw [exec_update_absent len chunk (same.stream.trans hs), State.write]
    | some st =>
      by_cases hl : len.toNat ≤ 16
      · refine ⟨.ok ⟨(takeChunk (s.h1, s.h2) st (lane chunk) len.toNat).1, (s.d1, s.d2),
          some (takeChunk (s.h1, s.h2) st (lane chunk) len.toNat).2, s.lat.update - 1⟩,
          .ok _ nofun (fun _ => rfl) nofun (by rw [hs]; rfl),
          fun s' ⟨h1, h2, d1, d2, stream, lat⟩ => ?_⟩
        simp [exec_update_legal (stream.trans hs) hl, State.setAcc_setStream_occupy, State.write,
          h1, h2, d1, d2, lat]
      · refine ⟨.error .badChunkLen, .error _ (by simp [Instr.wf, hl]), fun s' same => ?_⟩
        rw [exec_update_tooLong chunk (same.stream.trans hs) (by omega), State.write]
  | digest =>
    cases hs : s.stream with
    | none =>
      refine ⟨.error .noStream, .error _ ?_, fun s' same => ?_⟩
      · simp [Instr.present, State.hasStream_of_none hs]
      · rw [exec_digest_absent (same.stream.trans hs), State.write]
    | some st =>
      refine ⟨.ok ⟨(s.h1, s.h2), finalize s.h1 s.h2 (digestTail st) (digestTailLen st) st.total, s.stream,
        s.lat.digest - 1⟩, .ok _ (fun _ => rfl) nofun (fun _ => rfl) rfl,
        fun s' ⟨h1, h2, d1, d2, stream, lat⟩ => ?_⟩
      simp [exec_digest_present (stream.trans hs), State.setDigest_occupy, State.write, *]

end Sys2Proof.Machine
end

section
/-! What every command and every edge leaves unchanged. -/

namespace Sys2Proof.Machine

/-! ## Commands -/

/-- A command's effect in the state itself: CmdError, or registers written. -/
theorem exec_eq_write {i : Instr} {s t : State} (h : exec i s = .next t) :
    ∃ e, Permitted i s e ∧ t = s.write e := by
  obtain ⟨e, permitted, effect⟩ := exec_effect i s
  exact ⟨e, permitted, (Host.Outcome.next.inj ((effect s (SameRegs.refl s)).symm.trans h)).symm⟩

/-- The same effect in two states with the same registers. -/
theorem exec_eq_write_of_sameRegs {i : Instr} {s s' t : State} (same : SameRegs s s')
    (h : exec i s = .next t) : ∃ e, t = s.write e ∧ exec i s' = .next (s'.write e) := by
  obtain ⟨e, _, effect⟩ := exec_effect i s
  exact ⟨e, (Host.Outcome.next.inj ((effect s (SameRegs.refl s)).symm.trans h)).symm, effect s' same⟩

section
variable (s : State) (e : Except Malformed Written)

theorem State.write_lat : (s.write e).lat = s.lat := by cases e <;> rfl
theorem State.write_pins : (s.write e).pins = s.pins := by cases e <;> rfl
theorem State.write_index : (s.write e).index = s.index := by cases e <;> rfl
theorem State.write_cycle : (s.write e).cycle = s.cycle := by cases e <;> rfl

end

section
variable {i : Instr} {s t : State}

theorem exec_build (h : exec i s = .next t) : t.build = s.build := by
  obtain ⟨e, permitted, rfl⟩ := exec_eq_write h
  have stays : (s.write e).hasStream = s.hasStream := by
    cases permitted with
    | error => rfl
    | ok _ _ _ _ present => exact present
  rw [State.build, State.build, stays, State.write_lat]

theorem exec_index (h : exec i s = .next t) : t.index = s.index := by
  obtain ⟨e, _, rfl⟩ := exec_eq_write h
  exact s.write_index e

theorem exec_acc_frame (hi : writesAcc i = false) (h : exec i s = .next t) :
    (t.h1, t.h2) = (s.h1, s.h2) := by
  obtain ⟨e, permitted, rfl⟩ := exec_eq_write h
  cases permitted with
  | error => rfl
  | ok _ acc => exact acc hi

theorem exec_latch_frame (hi : writesDigest i = false) (h : exec i s = .next t) :
    (t.d1, t.d2) = (s.d1, s.d2) := by
  obtain ⟨e, permitted, rfl⟩ := exec_eq_write h
  cases permitted with
  | error => rfl
  | ok _ _ digest => exact digest hi

theorem exec_stream_frame (hi : writesStream i = false) (h : exec i s = .next t) :
    t.stream = s.stream := by
  obtain ⟨e, permitted, rfl⟩ := exec_eq_write h
  cases permitted with
  | error => rfl
  | ok _ _ _ stream => exact stream hi

/-- A legal command writes neither ERR nor ECAUSE. -/
theorem exec_err_frame (wf : i.wf = true) (present : i.present s.hasStream = true)
    (h : exec i s = .next t) : t.err = s.err ∧ t.ecause = s.ecause := by
  obtain ⟨e, permitted, rfl⟩ := exec_eq_write h
  cases permitted with
  | error _ illegal => exact absurd ⟨wf, present⟩ illegal
  | ok => exact ⟨rfl, rfl⟩

end

theorem accept_of_ok {w : Cmd} {s : State} {i : Instr} (h : decode s.hasStream w = .ok i) :
    accept w s = exec i s.count := by
  rw [accept, h]

theorem accept_of_error {w : Cmd} {s : State} {m : Malformed} (h : decode s.hasStream w = .error m) :
    accept w s = .next (cmdError m s.count) := by
  rw [accept, h]

/-- Settles O34: the registers of a permitted effect are those the table lists. -/
theorem onlyTheListedCommandsWrite : Obligations.OnlyTheListedCommandsWrite := by
  intro i s t h
  refine ⟨fun hi => Prod.mk.inj (exec_acc_frame hi h), fun hi => Prod.mk.inj (exec_latch_frame hi h),
    fun hi => exec_stream_frame hi h, fun wf present => exec_err_frame wf present h, exec_build h, ?_⟩
  obtain ⟨e, _, rfl⟩ := exec_eq_write h
  exact ⟨s.write_pins e, s.write_index e, s.write_cycle e⟩

/-- Settles O39: BUSY, the cycle and the pins are none of the registers a command reads, and every effect
sets BUSY. -/
theorem resultsDoNotDependOnTheClock : Obligations.ResultsDoNotDependOnTheClock := by
  intro i s t busy cycle pins h
  have same : SameRegs s { s with busy := busy, cycle := cycle, pins := pins } :=
    ⟨rfl, rfl, rfl, rfl, rfl, rfl⟩
  obtain ⟨e, rfl, effect⟩ := exec_eq_write_of_sameRegs same h
  rw [effect]
  cases e <;> rfl

/-- Settles O38: both states decode the word alike; ERR and ECAUSE are none of the registers a command
reads, and CmdError writes nothing else but BUSY. -/
theorem errInfluencesNothingElse : Obligations.ErrInfluencesNothingElse := by
  intro s t u w err ecause ht hu
  have sameStream : { s with err := err, ecause := ecause }.hasStream = s.hasStream := rfl
  rcases accept_cases ht with ⟨i, decoded, run⟩ | ⟨m, decoded, rfl⟩
  · have same : SameRegs s.count { s with err := err, ecause := ecause }.count :=
      ⟨rfl, rfl, rfl, rfl, rfl, rfl⟩
    obtain ⟨e, rfl, effect⟩ := exec_eq_write_of_sameRegs same run
    rw [accept_of_ok (sameStream ▸ decoded), effect] at hu
    obtain rfl := Host.Outcome.next.inj hu
    cases e <;> rfl
  · rw [accept_of_error (sameStream ▸ decoded)] at hu
    obtain rfl := Host.Outcome.next.inj hu
    rfl

/-! ## Edges -/

theorem accept_index {w : Cmd} {s t : State} (h : accept w s = .next t) : t.index = s.index + 1 := by
  rcases accept_cases h with ⟨i, _, run⟩ | ⟨m, _, rfl⟩
  · rw [exec_index run, State.count_index]
  · rfl

theorem accept_build {w : Cmd} {s t : State} (h : accept w s = .next t) : t.build = s.build := by
  rcases accept_cases h with ⟨i, _, run⟩ | ⟨m, _, rfl⟩
  · rw [exec_build run]; rfl
  · rfl

theorem step_build {s t : State} (h : step s = .next t) : t.build = s.build := by
  rcases step_cases h with ⟨_, rfl⟩ | ⟨_, _, rfl⟩ | ⟨_, _, _, accepted⟩ | ⟨_, _, _, rfl⟩
  · rw [State.build, State.applyReset_hasStream]; rfl
  · rfl
  · rw [accept_build accepted]; rfl
  · rfl

/-- A command is accepted at an edge where `rst = 0`, `cmd_valid = 1` and the block is not busy. -/
theorem State.accepts_iff (s : State) :
    s.accepts = true ↔ s.headPins.rst = false ∧ s.headPins.valid = true ∧ s.busy = 0 := by
  simp [State.accepts, State.ready, State.busyNow, and_assoc, and_comm (a := s.busy = 0)]

/-- Settles O41: of the four kinds of edge only the one that accepts counts. -/
theorem indexCountsAcceptedCommands : Obligations.IndexCountsAcceptedCommands := by
  intro s t h
  refine ⟨?_, s.accepts_iff⟩
  simp only [s.accepts_iff]
  rcases step_cases h with ⟨rst, rfl⟩ | ⟨_, busy, rfl⟩ | ⟨rst, idle, valid, accepted⟩ | ⟨_, _, valid, rfl⟩
  · simp [rst]
  · simp [busy]
  · rw [if_pos ⟨rst, valid, idle⟩, accept_index accepted, State.tick_index]
  · simp [valid]

end Sys2Proof.Machine
end

section
/-! The stream registers' invariants (10_state.md R29), kept by a legal UPDATE. -/

namespace Sys2Proof.Machine

/-! ## Registers that hold the bytes fed -/

/-- The counts are the lengths of the bytes held. -/
theorem StreamTracks.of_bytes {fed : List Byte} {st : StreamRegs}
    (total : st.total = BitVec.ofNat 64 fed.length)
    (pending : st.pending = fed.drop (16 * (fed.length / 16))) (window : st.window = lastOf 15 fed) :
    StreamTracks fed st := by
  rw [← lastOf_mod] at pending
  have bufcnt : st.bufcnt.toNat = fed.length % 16 := by
    rw [← length_pending, pending, length_lastOf]; omega
  have tailcnt : st.tailcnt.toNat = min fed.length 15 := by
    rw [← length_window, window, length_lastOf, Nat.min_comm]
  exact ⟨total, bufcnt, pending, tailcnt, window⟩

theorem streamTracks_reset : StreamTracks [] StreamRegs.reset :=
  .of_bytes rfl rfl rfl

section
variable {fed bytes : List Byte} {st : StreamRegs} {h : Word × Word} {r : (Word × Word) × StreamRegs}

/-- What is pending goes on with the bytes absorbed. -/
theorem StreamTracks.pending_append (tracks : StreamTracks fed st) (bytes : List Byte) :
    st.pending ++ bytes = (fed ++ bytes).drop (16 * (fed.length / 16)) := by
  obtain ⟨_, _, pending, _, _⟩ := tracks
  rw [pending, lastOf_mod, List.drop_append_of_le_length (by omega)]

/-- The complete blocks are those before and those the pending bytes complete. -/
theorem StreamTracks.blocks_append (tracks : StreamTracks fed st) (bytes : List Byte) :
    (fed ++ bytes).length / 16 = fed.length / 16 + (st.pending ++ bytes).length / 16 := by
  obtain ⟨_, bufcnt, _, _, _⟩ := tracks
  simp only [List.length_append, length_pending]
  omega

theorem StreamTracks.absorbed (tracks : StreamTracks fed st) (absorbed : Absorbed h st bytes r) :
    StreamTracks (fed ++ bytes) r.2 := by
  obtain ⟨total, _, _, _, window⟩ := id tracks
  refine .of_bytes ?_ ?_ ?_
  · rw [absorbed.total, total, List.length_append, BitVec.ofNat_add]
  · rw [absorbed.pending, tracks.pending_append, List.drop_drop, ← Nat.mul_add, ← tracks.pending_append,
      ← tracks.blocks_append]
  · rw [absorbed.window, window, lastOf_lastOf_append]

/-- A pair mixed with the complete blocks fed stays so. -/
theorem StreamTracks.absorbed_acc (tracks : StreamTracks fed st) (absorbed : Absorbed h st bytes r)
    {seed : Word × Word} (acc : h = mixBlocks fed (fed.length / 16) seed) :
    r.1 = mixBlocks (fed ++ bytes) ((fed ++ bytes).length / 16) seed := by
  rw [tracks.blocks_append, mixBlocks_add, mixBlocks_append _ _ _ _ (by omega), ← acc,
    ← tracks.pending_append, absorbed.acc]

/-! ## Coherent registers -/

/-- Of a total length below 2^64 nothing is lost, of a longer one what counts modulo 16. -/
theorem StreamTracks.coherent (tracks : StreamTracks fed st) : StreamCoherent st := by
  obtain ⟨total, bufcnt, pending, tailcnt, window⟩ := tracks
  have htotal : st.total.toNat = fed.length % 2 ^ 64 := by rw [total, BitVec.toNat_ofNat]
  refine ⟨by omega, by omega, ?_⟩
  rw [pending, window, bufcnt, lastOf_lastOf _ (by omega)]

/-- Coherent registers hold the bytes of the window, behind as many others as TOTAL counts more. -/
theorem StreamCoherent.exists_fed (coherent : StreamCoherent st) : ∃ fed, StreamTracks fed st := by
  obtain ⟨bufcnt, tailcnt, pending⟩ := coherent
  obtain ⟨k, hk, complete⟩ : ∃ k, (k + st.tailcnt.toNat) % 2 ^ 64 = st.total.toNat ∧
      (st.tailcnt.toNat = 15 ∨ k = 0) := by
    rcases tailcnt with full | all
    · exact ⟨st.total.toNat + 2 ^ 64 - 15, by omega, .inl full⟩
    · exact ⟨0, by omega, .inr rfl⟩
  have hlen : (List.replicate k 0 ++ st.window).length = k + st.tailcnt.toNat := by simp
  refine ⟨List.replicate k 0 ++ st.window, .of_bytes ?_ ?_ ?_⟩
  · exact BitVec.eq_of_toNat_eq (by rw [hlen, BitVec.toNat_ofNat, hk])
  · rw [← lastOf_mod, hlen, show (k + st.tailcnt.toNat) % 16 = st.bufcnt.toNat by omega,
      lastOf_append_of_le_right _ (by rw [length_window]; omega), pending]
  · rcases complete with full | rfl
    · rw [lastOf_append_of_le_right _ (by rw [length_window, full]),
        lastOf_eq_self (by rw [length_window, full])]
    · exact (lastOf_eq_self (by rw [length_window]; omega)).symm

end

end Sys2Proof.Machine
end

section
/-! The invariant and the bytes held, kept by every command and every edge (10_state.md R17, R18, R29). -/

namespace Sys2Proof.Machine

/-! ## The stream registers -/

section
variable {s t : State} {st : StreamRegs} {fed : List Byte}

/-- A legal UPDATE absorbs its chunk into the pair and the stream registers. -/
theorem exec_update_absorbed {len : BitVec 5} {chunk : Data} (hs : s.stream = some st)
    (hl : len.toNat ≤ 16) (h : exec (.update len chunk) s = .next t) :
    ∃ r, Absorbed (s.h1, s.h2) st (chunkBytes len chunk) r ∧ (t.h1, t.h2) = r.1 ∧ t.stream = some r.2 := by
  rw [exec_update_legal hs hl] at h
  obtain rfl := Host.Outcome.next.inj h
  exact ⟨_, takeChunk_absorbed (s.h1, s.h2) st (lane chunk) hl, rfl, rfl⟩

/-- An UPDATE that is too long feeds nothing. -/
theorem exec_update_tooLong_frame {len : BitVec 5} {chunk : Data} (hs : s.stream = some st)
    (hl : ¬len.toNat ≤ 16) (h : exec (.update len chunk) s = .next t) :
    (t.h1, t.h2) = (s.h1, s.h2) ∧ t.stream = some st := by
  rw [exec_update_tooLong chunk hs (by omega)] at h
  obtain rfl := Host.Outcome.next.inj h
  exact ⟨rfl, hs⟩

theorem exec_init_clears {seed : Seed} (hs : s.hasStream = true)
    (h : exec (.init seed) s = .next t) :
    (t.h1, t.h2) = (seedWord seed, seedWord seed) ∧ t.stream = some StreamRegs.reset := by
  obtain ⟨st, hst⟩ := State.exists_stream hs
  obtain rfl := exec_init_eq h
  exact ⟨rfl, by simp [hst]⟩

/-- After a command the stream registers hold the bytes fed then. -/
theorem exec_streamTracks {i : Instr} (hs : s.stream = some st) (tracks : StreamTracks fed st)
    (h : exec i s = .next t) : ∃ st', t.stream = some st' ∧ StreamTracks (fedAfter fed i) st' := by
  cases i with
  | init seed => exact ⟨_, (exec_init_clears (State.hasStream_of_some hs) h).2, streamTracks_reset⟩
  | update len chunk =>
    by_cases hl : len.toNat ≤ 16
    · obtain ⟨r, absorbed, _, stream⟩ := exec_update_absorbed hs hl h
      rw [fedAfter, if_pos hl]
      exact ⟨r.2, stream, tracks.absorbed absorbed⟩
    · rw [fedAfter, if_neg hl]
      exact ⟨st, (exec_update_tooLong_frame hs hl h).2, tracks⟩
  | nop | block _ _ | final _ _ _ | loadh _ _ | digest =>
    exact ⟨st, (exec_stream_frame rfl h).trans hs, tracks⟩

/-- NOP, FINAL, DIGEST and UPDATE keep the pair mixed with the complete blocks fed. -/
theorem exec_accTracks {i : Instr} {seed : Seed} (hi : keepsStream i = true) (hs : s.stream = some st)
    (tracks : StreamTracks fed st) (acc : AccTracks seed fed s) (h : exec i s = .next t) :
    AccTracks seed (fedAfter fed i) t := by
  cases i with
  | update len chunk =>
    by_cases hl : len.toNat ≤ 16
    · obtain ⟨r, absorbed, pair, _⟩ := exec_update_absorbed hs hl h
      rw [fedAfter, if_pos hl, AccTracks, pair]
      exact tracks.absorbed_acc absorbed acc
    · rw [fedAfter, if_neg hl, AccTracks, (exec_update_tooLong_frame hs hl h).1]
      exact acc
  | nop | final _ _ _ | digest => exact (exec_acc_frame rfl h).trans acc
  | init _ | block _ _ | loadh _ _ => exact absurd hi Bool.false_ne_true

/-- Coherent registers hold some bytes, so they hold some after a command, and are coherent then. -/
theorem exec_streamCoherent {i : Instr} (coherent : ∀ st, s.stream = some st → StreamCoherent st)
    (h : exec i s = .next t) : ∀ st, t.stream = some st → StreamCoherent st := by
  intro st' hst'
  have present : s.hasStream = true := by
    have kept : t.hasStream = s.hasStream := congrArg Build.hasStream (exec_build h)
    exact kept ▸ State.hasStream_of_some hst'
  obtain ⟨st, hst⟩ := State.exists_stream present
  obtain ⟨fed, tracks⟩ := (coherent st hst).exists_fed
  obtain ⟨st'', hst'', tracks'⟩ := exec_streamTracks hst tracks h
  cases hst'.symm.trans hst''
  exact tracks'.coherent

end

/-! ## ERR and ECAUSE -/

/-- Every cause has a code of R90, none of them 0. -/
theorem causeCode_range (m : Malformed) : (causeCode m).toNat ≤ 4 ∧ causeCode m ≠ 0 := by
  cases m <;> decide

theorem errCoherent_cmdError (m : Malformed) {s : State} (h : ErrCoherent s) :
    ErrCoherent (cmdError m s) := by
  obtain ⟨code, zero⟩ := h
  have cause : (nextCause s.err s.ecause m).toNat ≤ 4 ∧ nextCause s.err s.ecause m ≠ 0 := by
    cases herr : s.err with
    | true => exact ⟨code, fun none => by simp [zero.mpr none] at herr⟩
    | false => exact causeCode_range m
  exact ⟨cause.1, iff_of_false Bool.false_ne_true.symm cause.2⟩

/-! ## The invariant -/

theorem stateInv_cmdError (m : Malformed) {s : State} (h : StateInv s) : StateInv (cmdError m s) :=
  ⟨errCoherent_cmdError m h.1, h.2⟩

theorem stateInv_applyReset (s : State) : StateInv s.applyReset := by
  refine ⟨⟨Nat.zero_le 4, iff_of_true rfl rfl⟩, fun st hst => ?_⟩
  obtain ⟨_, _, rfl⟩ := Option.map_eq_some_iff.mp hst
  exact streamTracks_reset.coherent

theorem exec_stateInv {i : Instr} {s t : State} (inv : StateInv s) (h : exec i s = .next t) :
    StateInv t := by
  refine ⟨?_, exec_streamCoherent inv.2 h⟩
  obtain ⟨m | w, _, rfl⟩ := exec_eq_write h
  · exact errCoherent_cmdError m inv.1
  · exact inv.1

theorem accept_stateInv {w : Cmd} {s t : State} (inv : StateInv s) (h : accept w s = .next t) :
    StateInv t := by
  rcases accept_cases h with ⟨i, _, run⟩ | ⟨m, _, rfl⟩
  · exact exec_stateInv (s := s.count) inv run
  · exact stateInv_cmdError m (s := s.count) inv

theorem State.applyReset_resetOf (b : Build) : (State.resetOf b).applyReset = State.resetOf b := by
  cases hb : b.hasStream <;> simp [State.applyReset, State.clearStream, State.resetOf, hb]

/-- Settles O49: reset gives the invariant, and leaves the reset state as it is. -/
theorem invariantHoldsAtReset : Obligations.InvariantHoldsAtReset := fun b =>
  State.applyReset_resetOf b ▸ stateInv_applyReset (State.resetOf b)

/-- Settles O50, along the kinds of edge: reset, a busy cycle, an accepted word, an idle cycle. -/
theorem stepKeepsTheInvariant : Obligations.StepKeepsTheInvariant := by
  intro s t inv h
  refine ⟨?_, step_build h⟩
  rcases step_cases h with ⟨_, rfl⟩ | ⟨_, _, rfl⟩ | ⟨_, _, _, accepted⟩ | ⟨_, _, _, rfl⟩
  · exact stateInv_applyReset _
  · exact inv
  · exact accept_stateInv (s := s.tick) inv accepted
  · exact inv

/-- Settles O51: at reset and INIT nothing is fed; a word runs its command or feeds nothing. -/
theorem streamHoldsTheBytesFed : Obligations.StreamHoldsTheBytesFed := by
  refine ⟨fun b hb => ?_, fun s t w seed present decoded h => ?_, fun s t st fed w hs tracks h => ?_,
    fun s t st fed seed w hs tracks acc h => ?_, fun st fed tracks => ?_⟩
  · exact ⟨StreamRegs.reset, by simp [State.resetOf, hb], streamTracks_reset, rfl⟩
  · rw [← present] at decoded
    rw [accept_of_ok decoded] at h
    obtain ⟨pair, stream⟩ := exec_init_clears (s := s.count) present h
    exact ⟨StreamRegs.reset, stream, streamTracks_reset, pair⟩
  · rcases accept_cases h with ⟨i, decoded, run⟩ | ⟨m, decoded, rfl⟩ <;>
      rw [State.hasStream_of_some hs] at decoded
    · obtain ⟨st', stream, tracks'⟩ := exec_streamTracks (s := s.count) hs tracks run
      refine ⟨st', stream, fun j hj => ?_, fun m hm => ?_⟩
      · cases decoded.symm.trans hj
        exact tracks'
      · cases decoded.symm.trans hm
    · refine ⟨st, hs, fun j hj => ?_, fun _ _ => tracks⟩
      cases decoded.symm.trans hj
  · rcases accept_cases h with ⟨i, decoded, run⟩ | ⟨m, decoded, rfl⟩ <;>
      rw [State.hasStream_of_some hs] at decoded
    · refine ⟨fun j hj keeps => ?_, fun m hm => ?_⟩
      · cases decoded.symm.trans hj
        exact exec_accTracks (s := s.count) keeps hs tracks acc run
      · cases decoded.symm.trans hm
    · refine ⟨fun j hj => ?_, fun _ _ => acc⟩
      cases decoded.symm.trans hj
  · obtain ⟨total, _⟩ := id tracks
    refine ⟨tracks.coherent, fun short => ?_, tracks.coherent.1⟩
    rw [total, BitVec.toNat_ofNat, Nat.mod_eq_of_lt short]

end Sys2Proof.Machine
end

section
/-! The bits of the status word one by one, and the registers after reset (10_state.md R24, R25, R30). -/

namespace Sys2Proof.Machine

/-! ## The status word -/

/-- A bit above BUSY, as a bit of the fields. -/
theorem statusWord_getElem_succ (f : BitVec 15) (b : Bool) (i : Nat) (hi : i < 15) :
    (statusWord f b)[i + 1] = f[i] := by
  rw [← BitVec.getLsbD_eq_getElem, statusWord_getLsbD_succ, BitVec.getLsbD_eq_getElem]

section
variable (s : State)

theorem statusFields_err : (statusFields s)[0] = s.err := by
  rw [← BitVec.getLsbD_eq_getElem, statusFields, BitVec.getLsbD_append, if_pos (by decide)]
  simp

theorem statusFields_hasStream : (statusFields s)[1] = s.hasStream := by
  rw [← BitVec.getLsbD_eq_getElem, statusFields, BitVec.getLsbD_append, if_neg (by decide),
    BitVec.getLsbD_append, if_pos (by decide)]
  simp

theorem statusFields_reserved : (statusFields s)[2] = false := by
  rw [← BitVec.getLsbD_eq_getElem, statusFields, BitVec.getLsbD_append, if_neg (by decide),
    BitVec.getLsbD_append, if_neg (by decide), BitVec.getLsbD_append, if_pos (by decide)]
  simp

theorem statusFields_ecause : (statusFields s).extractLsb' 3 4 = s.ecause := by
  rw [statusFields, BitVec.extractLsb'_append_eq_of_le (by decide),
    BitVec.extractLsb'_append_eq_of_le (by decide), BitVec.extractLsb'_append_eq_of_le (by decide),
    BitVec.extractLsb'_append_eq_right]

/-- Without the streaming module the counts read 0 (R23). -/
theorem statusFields_bufcnt :
    (statusFields s).extractLsb' 7 4 = (s.stream.map StreamRegs.bufcnt).getD 0 := by
  rw [statusFields, BitVec.extractLsb'_append_eq_of_le (by decide),
    BitVec.extractLsb'_append_eq_of_le (by decide), BitVec.extractLsb'_append_eq_of_le (by decide),
    BitVec.extractLsb'_append_eq_of_le (by decide), BitVec.extractLsb'_append_eq_right]
  cases s.stream <;> rfl

theorem statusFields_tailcnt :
    (statusFields s).extractLsb' 11 4 = (s.stream.map StreamRegs.tailcnt).getD 0 := by
  rw [statusFields, BitVec.extractLsb'_append_eq_of_le (by decide),
    BitVec.extractLsb'_append_eq_of_le (by decide), BitVec.extractLsb'_append_eq_of_le (by decide),
    BitVec.extractLsb'_append_eq_of_le (by decide), BitVec.extractLsb'_append_eq_left]
  cases s.stream <;> rfl

theorem State.totalShown_eq : s.totalShown = (s.stream.map StreamRegs.total).getD 0 := by
  rw [State.totalShown]
  cases s.stream <;> rfl

end

/-- In every cycle cmd_ready is `ready` and BUSY its complement. -/
theorem outputs_ready (s : State) :
    s.outputs.cmd_ready = s.ready ∧ s.outputs.status_o[0] = !s.ready := by
  cases hr : s.ready with
  | true => rw [outputs_of_ready hr]; exact ⟨rfl, statusWord_bit0 _ _⟩
  | false => rw [outputs_of_busy hr]; exact ⟨rfl, statusWord_bit0 _ _⟩

/-- Settles O46: the outputs of a ready cycle are the registers, slice by slice of the status word. -/
theorem portsShowTheRegisters : Obligations.PortsShowTheRegisters := by
  refine ⟨outputs_ready, fun s hr => ?_⟩
  rw [outputs_of_ready hr]
  simp only [readyOutputs, statusWord_getElem_succ _ _ 0 (by decide),
    statusWord_getElem_succ _ _ 1 (by decide), statusWord_getElem_succ _ _ 2 (by decide),
    statusWord_slice _ _ 3 4, statusWord_slice _ _ 7 4, statusWord_slice _ _ 11 4, State.totalShown_eq,
    statusFields_err, statusFields_hasStream, statusFields_reserved, statusFields_ecause,
    statusFields_bufcnt, statusFields_tailcnt, high_append, low_append, true_and]
  refine ⟨fun st hst => ?_, fun absent => ?_⟩
  · simp [hst]
  · simp [State.stream_eq_none absent]

/-! ## Reset -/

theorem byteAt_replicate_zero (k i : Nat) : byteAt (Vector.replicate k (0 : Byte)) i = 0 := by
  rcases Nat.lt_or_ge i k with h | h
  · rw [byteAt_of_lt _ h, Vector.getElem_replicate]
  · simp [byteAt, h]

theorem State.resetOf_build (b : Build) : (State.resetOf b).build = b := by
  cases b with
  | mk hasStream lat => cases hasStream <;> rfl

/-- Settles O1: the registers by the definition of reset; BUSY since no cycle with `rst = 1` is ready. -/
theorem resetLeavesEveryRegisterZero : Obligations.ResetLeavesEveryRegisterZero := by
  refine ⟨fun b => ⟨rfl, rfl, rfl, rfl, rfl, rfl, rfl, State.resetOf_build b, fun st hst => ?_⟩,
    fun s rst => ?_⟩
  · obtain ⟨_, rfl⟩ : b.hasStream = true ∧ StreamRegs.reset = st := by
      simpa [State.resetOf] using hst
    exact ⟨fun i _ => byteAt_replicate_zero 16 i, rfl, fun i _ => byteAt_replicate_zero 15 i, rfl, rfl⟩
  · rw [(outputs_ready s).2, State.ready, rst]
    rfl

end Sys2Proof.Machine
end

section
/-! The hidden bytes (10_state.md R31): blotting them out changes no output, and the next state only in
hidden bytes. -/

namespace Sys2Proof.Machine

/-! ## The registers a port or a command reads -/

/-- Blotting out bytes from `n` on leaves the first `n`. -/
theorem byteAt_blotted {k : Nat} (v : Vector Byte k) {n i : Nat} (h : i < n) :
    byteAt (Vector.ofFn fun j : Fin k => if j.1 < n then v[j] else 0) i = byteAt v i := by
  rcases Nat.lt_or_ge i k with hk | hk
  · rw [byteAt_ofFn _ hk, if_pos h, byteAt_of_lt _ hk]
    rfl
  · simp [byteAt, hk]

@[simp] theorem StreamRegs.blot_bufcnt (st : StreamRegs) : st.blot.bufcnt = st.bufcnt := by
  rw [StreamRegs.blot]

@[simp] theorem StreamRegs.blot_tailcnt (st : StreamRegs) : st.blot.tailcnt = st.tailcnt := by
  rw [StreamRegs.blot]

@[simp] theorem StreamRegs.blot_total (st : StreamRegs) : st.blot.total = st.total := by
  rw [StreamRegs.blot]

@[simp] theorem digestTailLen_blot (st : StreamRegs) : digestTailLen st.blot = digestTailLen st := by
  rw [digestTailLen, digestTailLen, st.blot_total]

@[simp] theorem StreamRegs.blot_pending (st : StreamRegs) : st.blot.pending = st.pending := by
  simp only [StreamRegs.pending, StreamRegs.blot]
  exact firstBytes_congr fun _ hi => byteAt_blotted st.buf hi

@[simp] theorem StreamRegs.blot_window (st : StreamRegs) : st.blot.window = st.window := by
  simp only [StreamRegs.window, StreamRegs.blot]
  exact firstBytes_congr fun _ hi => byteAt_blotted st.tail hi

/-- An array with the bytes from `n` on blotted out is known from its first `n` bytes. -/
theorem blotted_eq_of_firstBytes {k n : Nat} {v w : Vector Byte k}
    (h : firstBytes (byteAt v) n = firstBytes (byteAt w) n) :
    (Vector.ofFn fun i : Fin k => if i.1 < n then v[i] else 0) =
      Vector.ofFn fun i : Fin k => if i.1 < n then w[i] else 0 := by
  refine congrArg Vector.ofFn (funext fun i => ?_)
  split_ifs with hi
  · have heq := congrArg (seqByte · i.1) h
    simpa [seqByte_firstBytes hi, byteAt_of_lt _ i.2] using heq
  · rfl

/-- Registers with the same pending bytes, window and TOTAL differ in hidden bytes only. -/
theorem StreamRegs.blot_eq {st st' : StreamRegs} (pending : st.pending = st'.pending)
    (window : st.window = st'.window) (total : st.total = st'.total) : st.blot = st'.blot := by
  have bufcnt : st.bufcnt = st'.bufcnt :=
    BitVec.eq_of_toNat_eq (by rw [← length_pending, pending, length_pending])
  have tailcnt : st.tailcnt = st'.tailcnt :=
    BitVec.eq_of_toNat_eq (by rw [← length_window, window, length_window])
  rw [StreamRegs.pending, StreamRegs.pending, bufcnt] at pending
  rw [StreamRegs.window, StreamRegs.window, tailcnt] at window
  simp only [StreamRegs.blot, StreamRegs.mk.injEq]
  rw [bufcnt, tailcnt]
  exact ⟨blotted_eq_of_firstBytes pending, rfl, blotted_eq_of_firstBytes window, rfl, total⟩

theorem StreamRegs.blot_blot (st : StreamRegs) : st.blot.blot = st.blot :=
  StreamRegs.blot_eq st.blot_pending st.blot_window st.blot_total

theorem StreamRegs.blot_reset : StreamRegs.reset.blot = StreamRegs.reset := by decide

/-- The window bytes DIGEST takes lie below TAILCNT. -/
theorem digestTail_blot (st : StreamRegs) : digestTail st.blot = digestTail st := by
  have read (i : Nat) (hi : i < st.tailcnt.toNat) : byteAt st.blot.tail i = byteAt st.tail i :=
    byteAt_blotted st.tail hi
  simp only [digestTail, digestTailLen_blot, StreamRegs.blot_tailcnt]
  refine congrArg Vector.ofFn (funext fun i => ?_)
  split_ifs with hi inside
  · exact read _ (by omega)
  · rfl
  · rfl

/-- An UPDATE reads the pending bytes and the window, so hidden bytes change hidden bytes only. -/
theorem takeChunk_blot (h : Word × Word) (st : StreamRegs) (c : Nat → Byte) {n : Nat} (hn : n ≤ 16) :
    (takeChunk h st.blot c n).1 = (takeChunk h st c n).1 ∧
      (takeChunk h st.blot c n).2.blot = (takeChunk h st c n).2.blot := by
  have plain := takeChunk_absorbed h st c hn
  have blotted := takeChunk_absorbed h st.blot c hn
  refine ⟨?_, StreamRegs.blot_eq ?_ ?_ ?_⟩
  · rw [plain.acc, blotted.acc, st.blot_pending]
  · rw [plain.pending, blotted.pending, st.blot_pending]
  · rw [plain.window, blotted.window, st.blot_window]
  · rw [plain.total, blotted.total, st.blot_total]

/-! ## States with the hidden bytes blotted out -/

/-- The state with its hidden bytes blotted out. -/
def State.hide (s : State) : State := { s with stream := s.stream.map StreamRegs.blot }

theorem hiddenEq_iff (s t : State) : HiddenEq s t ↔ s.hide = t.hide := Iff.rfl

section
variable (s : State)

@[simp] theorem State.hide_h1 : s.hide.h1 = s.h1 := (rfl)
@[simp] theorem State.hide_h2 : s.hide.h2 = s.h2 := (rfl)
@[simp] theorem State.hide_err : s.hide.err = s.err := (rfl)
@[simp] theorem State.hide_ecause : s.hide.ecause = s.ecause := (rfl)
@[simp] theorem State.hide_lat : s.hide.lat = s.lat := (rfl)
@[simp] theorem State.hide_stream : s.hide.stream = s.stream.map StreamRegs.blot := (rfl)
@[simp] theorem State.hide_busyNow : s.hide.busyNow = s.busyNow := (rfl)
@[simp] theorem State.hide_ready : s.hide.ready = s.ready := (rfl)
@[simp] theorem State.hide_hasStream : s.hide.hasStream = s.hasStream := by simp [State.hasStream]

@[simp] theorem State.hide_hide : s.hide.hide = s.hide := by
  cases hs : s.stream <;> simp [State.hide, hs, StreamRegs.blot_blot]

@[simp] theorem State.hide_occupy (l : Nat) : (s.occupy l).hide = s.hide.occupy l := by
  simp only [State.hide, State.occupy]

@[simp] theorem State.hide_setAcc (h : Word × Word) : (s.setAcc h).hide = s.hide.setAcc h := by
  simp only [State.hide, State.setAcc]

@[simp] theorem State.hide_setDigest (d : Word × Word) : (s.setDigest d).hide = s.hide.setDigest d := by
  simp only [State.hide, State.setDigest]

@[simp] theorem State.hide_setStream (st : StreamRegs) :
    (s.setStream st).hide = s.hide.setStream st.blot := by
  simp only [State.hide, State.setStream, Option.map_some]

@[simp] theorem State.hide_clearStream : s.clearStream.hide = s.hide.clearStream := by
  simp [State.clearStream, State.hide, Function.comp_def, StreamRegs.blot_reset]

@[simp] theorem State.hide_count : s.count.hide = s.hide.count := by
  simp only [State.hide, State.count]

@[simp] theorem hide_cmdError (m : Malformed) : (cmdError m s).hide = cmdError m s.hide := by
  simp only [State.hide, cmdError_eq]

@[simp] theorem State.hide_applyReset : s.applyReset.hide = s.hide.applyReset := by
  simp only [State.applyReset, State.hide_clearStream]
  simp only [State.hide]

/-- No port shows a hidden byte. -/
theorem State.outputs_hide : s.hide.outputs = s.outputs := by
  have fields : statusFields s.hide = statusFields s := by
    cases hs : s.stream <;> simp [statusFields, State.hasStream, hs]
  have total : s.hide.totalShown = s.totalShown := by
    simp [State.totalShown_eq, Function.comp_def]
  cases hr : s.ready with
  | true =>
    rw [outputs_of_ready hr, outputs_of_ready (s.hide_ready.trans hr), readyOutputs, readyOutputs, fields,
      total]
    rfl
  | false => rw [outputs_of_busy hr, outputs_of_busy (s.hide_ready.trans hr)]; rfl

end

/-! ## Commands and edges -/

/-- A command runs on the blotted state as on the state itself, but for hidden bytes. -/
theorem exec_hide {i : Instr} {s t : State} (h : exec i s = .next t) :
    ∃ u, exec i s.hide = .next u ∧ u.hide = t.hide := by
  cases i with
  | nop =>
    obtain rfl := exec_nop_eq h
    exact ⟨_, exec_nop _, by simp⟩
  | init seed =>
    obtain rfl := exec_init_eq h
    exact ⟨_, exec_init _ _, by simp⟩
  | block k1 k2 =>
    obtain rfl := exec_block_eq h
    exact ⟨_, exec_block _ _ _, by simp⟩
  | final len tail total =>
    rcases exec_final_cases h with ⟨hl, rfl⟩ | ⟨hl, rfl⟩
    · exact ⟨_, exec_final_bad _ _ _ hl, by simp⟩
    · exact ⟨_, exec_final_legal _ _ _ hl, by simp⟩
  | loadh a b =>
    obtain rfl := exec_loadh_eq h
    exact ⟨_, exec_loadh _ _ _, by simp⟩
  | update len chunk =>
    rcases exec_update_cases h with ⟨hs, rfl⟩ | ⟨st, hs, ⟨hl, rfl⟩ | ⟨hl, rfl⟩⟩
    · exact ⟨_, exec_update_absent _ _ (by simp [hs]), by simp⟩
    · exact ⟨_, exec_update_tooLong (st := st.blot) _ (by simp [hs]) hl, by simp⟩
    · obtain ⟨acc, regs⟩ := takeChunk_blot (s.h1, s.h2) st (lane chunk) hl
      exact ⟨_, exec_update_legal (st := st.blot) (by simp [hs]) hl, by simp [acc, regs]⟩
  | digest =>
    rcases exec_digest_cases h with ⟨hs, rfl⟩ | ⟨st, hs, rfl⟩
    · exact ⟨_, exec_digest_absent (by simp [hs]), by simp⟩
    · exact ⟨_, exec_digest_present (st := st.blot) (by simp [hs]), by simp [digestTail_blot]⟩

theorem accept_hide {w : Cmd} {s t : State} (h : accept w s = .next t) :
    ∃ u, accept w s.hide = .next u ∧ u.hide = t.hide := by
  rcases accept_cases h with ⟨i, decoded, run⟩ | ⟨m, decoded, rfl⟩
  · rw [accept_of_ok (by rwa [s.hide_hasStream])]
    exact exec_hide run
  · exact ⟨_, accept_of_error (by rwa [s.hide_hasStream]), by simp⟩

theorem edge_hide {p : Pins} {s t : State} (h : edge p s = .next t) :
    ∃ u, edge p s.hide = .next u ∧ u.hide = t.hide := by
  simp only [edge, State.hide_busyNow] at h ⊢
  split_ifs at h ⊢ with rst busy valid
  · obtain rfl := Host.Outcome.next.inj h
    exact ⟨_, rfl, by simp⟩
  · obtain rfl := Host.Outcome.next.inj h
    exact ⟨_, rfl, congrArg (fun v : State => { v with busy := s.busy - 1 }) s.hide_hide⟩
  · exact accept_hide h
  · obtain rfl := Host.Outcome.next.inj h
    exact ⟨_, rfl, s.hide_hide⟩

theorem step_hide {s t : State} (h : step s = .next t) :
    ∃ u, step s.hide = .next u ∧ u.hide = t.hide :=
  edge_hide (s := s.tick) h

/-- Settles O52: both states step as their common blotted state does. -/
theorem hiddenBytesAreInvisible : Obligations.HiddenBytesAreInvisible := by
  intro s t same
  rw [hiddenEq_iff] at same
  refine ⟨by rw [← s.outputs_hide, same, t.outputs_hide], fun s' t' hs ht => ?_⟩
  obtain ⟨u, stepS, hideS⟩ := step_hide hs
  obtain ⟨v, stepT, hideT⟩ := step_hide ht
  rw [same, stepT] at stepS
  obtain rfl := Host.Outcome.next.inj stepS
  have same' : s'.hide = t'.hide := hideS.symm.trans hideT
  exact ⟨same', by rw [← s'.outputs_hide, same', t'.outputs_hide]⟩

end Sys2Proof.Machine
end

section
/-! Bytes and digits of a 128-bit word: the words read from its lanes, the digits of a concatenation
(20_memory.md R34, R41). -/

namespace Sys2Proof.Machine

/-- A byte shifted to byte position `m` holds the bits `8m` to `8m + 7`. -/
theorem getLsbD_byte_shiftLeft (x : Byte) (m : Nat) {i : Nat} (hi : i < 64) :
    (x.zeroExtend 64 <<< (8 * m)).getLsbD i = (decide (i / 8 = m) && x.getLsbD (i % 8)) := by
  rw [BitVec.getLsbD_shiftLeft, BitVec.zeroExtend_eq_setWidth, BitVec.getLsbD_setWidth]
  rcases lt_trichotomy (i / 8) m with below | rfl | above
  · simp [below.ne, (by omega : i < 8 * m)]
  · rw [show i - 8 * (i / 8) = i % 8 by omega]
    simp [hi, Nat.mul_div_le, (by omega : i % 8 < 64)]
  · simp [above.ne', BitVec.getLsbD_of_ge x (i - 8 * m) (by omega)]

/-- Bit `i` of a little-endian word stands in its byte `i / 8` (00_scope.md R10). -/
theorem getLsbD_le64 (b : Nat → Byte) (j : Nat) {i : Nat} (hi : i < 64) :
    (le64 b j).getLsbD i = (b (j + i / 8)).getLsbD (i % 8) := by
  have lowest := getLsbD_byte_shiftLeft (b j) 0 hi
  have shifted (m : Nat) := getLsbD_byte_shiftLeft (b (j + m)) m hi
  rw [Nat.mul_zero, BitVec.shiftLeft_zero] at lowest
  simp only [le64, BitVec.getLsbD_or, lowest, shifted 1, shifted 2, shifted 3, shifted 4, shifted 5,
    shifted 6, shifted 7]
  have byte : i / 8 < 8 := by omega
  interval_cases i / 8 <;> simp

/-- The word read from eight lanes of a data field is the slice those lanes fill (R34). -/
theorem le64_lane {w : Nat} (d : BitVec w) (j : Nat) : le64 (lane d) j = d.extractLsb' (8 * j) 64 := by
  refine BitVec.eq_of_getLsbD_eq fun i hi => ?_
  rw [getLsbD_le64 _ _ hi, lane, BitVec.getLsbD_extractLsb', BitVec.getLsbD_extractLsb',
    show 8 * (j + i / 8) + i % 8 = 8 * j + i by omega]
  simp [hi, Nat.mod_lt]

/-- Settles O10: the lanes from 0 and from 8 on. -/
theorem keyWordsAreDataSlices : Obligations.KeyWordsAreDataSlices := fun d =>
  ⟨le64_lane d 0, le64_lane d 8⟩

/-- Settles O47: in a ready cycle digest_o is the concatenation, whose upper 16 digits are D1's. -/
theorem digestPortHasD1AboveD2 : Obligations.DigestPortHasD1AboveD2 := by
  intro s hr
  have port : s.outputs.digest_o = s.d1 ++ s.d2 := by rw [outputs_of_ready hr, readyOutputs]
  rw [port]
  refine ⟨rfl, ?_, fun j hj => ?_, fun j hj => ?_⟩
  · rw [BitVec.toNat_append, ← Nat.shiftLeft_add_eq_or_of_lt s.d2.isLt, Nat.shiftLeft_eq]
  · rw [BitVec.extractLsb'_append_eq_of_le (by omega)]
    congr 1
    omega
  · rw [BitVec.extractLsb'_append_eq_of_add_le (by omega)]

end Sys2Proof.Machine
end

section
/-! A run of edges refines the sequence of the commands it accepts (20_memory.md R42): the clock is no
part of what a command reads, and an edge is one accepted command or none. -/

namespace Sys2Proof.Machine

/-! ## The clock left out -/

section
variable {s s' : State} (same : s.timeless = s'.timeless)
include same

theorem SameRegs.count_of_timeless : SameRegs s.count s'.count :=
  ⟨(congrArg State.h1 same).symm, (congrArg State.h2 same).symm, (congrArg State.d1 same).symm,
    (congrArg State.d2 same).symm, (congrArg State.stream same).symm, (congrArg State.lat same).symm⟩

/-- An effect leaves no more of the clock behind than it found. -/
theorem State.write_count_timeless (e : Except Malformed Written) :
    (s.count.write e).timeless = (s'.count.write e).timeless := by
  have forget (u : State) : (u.count.write e).timeless = (u.timeless.count.write e).timeless := by
    cases e <;> rfl
  rw [forget s, same, forget s']

theorem readyOutputs_of_timeless : readyOutputs s = readyOutputs s' :=
  (congrArg readyOutputs same :)

end

/-! ## Accepted commands -/

/-- A word is always accepted with a next state, by one effect in all states that differ in the clock
only. -/
theorem accept_effect (w : Cmd) (s : State) :
    ∃ e, ∀ s' : State, s.timeless = s'.timeless → accept w s' = .next (s'.count.write e) := by
  have stream (s' : State) (same : s.timeless = s'.timeless) : s'.hasStream = s.hasStream :=
    (congrArg State.hasStream same).symm
  cases decoded : decode s.hasStream w with
  | ok i =>
    obtain ⟨e, _, effect⟩ := exec_effect i s.count
    refine ⟨e, fun s' same => ?_⟩
    rw [accept_of_ok (stream s' same ▸ decoded), effect _ (SameRegs.count_of_timeless same)]
  | error m =>
    refine ⟨.error m, fun s' same => ?_⟩
    rw [accept_of_error (stream s' same ▸ decoded), State.write]

theorem accept_pins {w : Cmd} {s t : State} (h : accept w s = .next t) : t.pins = s.pins := by
  obtain ⟨e, effect⟩ := accept_effect w s
  obtain rfl := Host.Outcome.next.inj ((effect s rfl).symm.trans h)
  exact s.count.write_pins e

/-- The same word in two states that differ in the clock only. -/
theorem accept_of_timeless {w : Cmd} {s s' t : State} (same : s.timeless = s'.timeless)
    (h : accept w s = .next t) : ∃ t', accept w s' = .next t' ∧ t.timeless = t'.timeless := by
  obtain ⟨e, effect⟩ := accept_effect w s
  obtain rfl := Host.Outcome.next.inj ((effect s rfl).symm.trans h)
  exact ⟨_, effect s' same, State.write_count_timeless same e⟩

theorem acceptAll_cons {w : Cmd} {s t : State} (ws : List Cmd) (h : accept w s = .next t) :
    acceptAll (w :: ws) s = acceptAll ws t := by
  rw [acceptAll, h]

/-- The same words, in two states that differ in the clock only. -/
theorem acceptAll_of_timeless {ws : List Cmd} {s s' t : State} (same : s.timeless = s'.timeless)
    (h : acceptAll ws s = .next t) : ∃ t', acceptAll ws s' = .next t' ∧ t.timeless = t'.timeless := by
  induction ws generalizing s s' with
  | nil =>
    obtain rfl := Host.Outcome.next.inj h
    exact ⟨s', rfl, same⟩
  | cons w ws ih =>
    obtain ⟨e, effect⟩ := accept_effect w s
    rw [acceptAll_cons ws (effect s rfl)] at h
    rw [acceptAll_cons ws (effect s' same)]
    exact ih (State.write_count_timeless same e) h

/-! ## Edges -/

theorem step_next (s : State) : ∃ t, step s = .next t := by
  obtain ⟨e, effect⟩ := accept_effect s.headPins.cmd s.tick
  rw [step, edge, effect _ rfl]
  split_ifs <;> exact ⟨_, rfl⟩

theorem step_pins {s t : State} (h : step s = .next t) : t.pins = s.pins.tail := by
  rcases step_cases h with ⟨_, rfl⟩ | ⟨_, _, rfl⟩ | ⟨_, _, _, accepted⟩ | ⟨_, _, _, rfl⟩
  · rfl
  · rfl
  · exact accept_pins accepted
  · rfl

/-- One edge without reset accepts the offered word, or changes nothing but the clock. -/
theorem step_refines {s t : State} (rst : s.headPins.rst = false) (h : step s = .next t) :
    (s.accepts = true ∧ ∃ u, accept s.headPins.cmd s = .next u ∧ u.timeless = t.timeless) ∨
    (s.accepts = false ∧ s.timeless = t.timeless) := by
  rcases step_cases h with ⟨reset, _⟩ | ⟨_, busy, rfl⟩ | ⟨_, idle, valid, accepted⟩ | ⟨_, _, valid, rfl⟩
  · simp [rst] at reset
  · exact .inr ⟨by simp [← Bool.not_eq_true, s.accepts_iff, busy], rfl⟩
  · obtain ⟨u, run, same⟩ := accept_of_timeless (s := s.tick) (s' := s) rfl accepted
    exact .inl ⟨s.accepts_iff.mpr ⟨rst, valid, idle⟩, u, run, same.symm⟩
  · exact .inr ⟨by simp [← Bool.not_eq_true, s.accepts_iff, valid], rfl⟩

theorem acceptedIn_succ {s t : State} (k : Nat) (h : step s = .next t) :
    acceptedIn (k + 1) s = if s.accepts then s.headPins.cmd :: acceptedIn k t else acceptedIn k t := by
  rw [acceptedIn, h]

theorem run_succ {s t : State} (k : Nat) (h : step s = .next t) :
    Host.Core.run core (k + 1) s = Host.Core.run core k t := by
  have edge : core.step s = .next t := h
  simp only [Host.Core.run, edge]

theorem State.noReset_head {s : State} {k : Nat} (h : s.noReset (k + 1)) : s.headPins.rst = false := by
  rw [State.headPins]
  cases pins : s.pins with
  | nil => rfl
  | cons p ps => exact h p (by simp [pins])

theorem State.noReset_step {s t : State} {k : Nat} (h : s.noReset (k + 1)) (edge : step s = .next t) :
    t.noReset k := by
  intro p hp
  rw [step_pins edge] at hp
  refine h p ?_
  cases pins : s.pins with
  | nil => simp [pins] at hp
  | cons q qs => exact List.mem_cons_of_mem _ (by simpa [pins] using hp)

/-! ## Runs -/

/-- A run of edges without reset and the sequence of its accepted commands end in states that differ in
the clock only. -/
theorem run_refines (k : Nat) (s : State) (noReset : s.noReset k) :
    ∃ t u : State, Host.Core.run core k s = .next t ∧ acceptAll (acceptedIn k s) s = .next u ∧
      t.timeless = u.timeless := by
  induction k generalizing s with
  | zero => exact ⟨s, s, rfl, rfl, rfl⟩
  | succ k ih =>
    obtain ⟨s₁, edge⟩ := step_next s
    obtain ⟨t, u, run, accepted, same⟩ := ih s₁ (State.noReset_step noReset edge)
    rw [run_succ k edge, acceptedIn_succ k edge]
    rcases step_refines (State.noReset_head noReset) edge with ⟨accepts, s', first, same₁⟩ | ⟨accepts, same₁⟩
    · obtain ⟨u', rest, same'⟩ := acceptAll_of_timeless same₁.symm accepted
      exact ⟨t, u', run, by rw [if_pos accepts, acceptAll_cons _ first, rest], same.trans same'⟩
    · obtain ⟨u', rest, same'⟩ := acceptAll_of_timeless same₁.symm accepted
      exact ⟨t, u', run, by rw [if_neg (by simp [accepts]), rest], same.trans same'⟩

/-- Settles O45: a run refines its accepted commands, and the outputs of a ready cycle do not show the
clock. -/
theorem edgesRefineTheCommandSequence : Obligations.EdgesRefineTheCommandSequence := by
  intro k s noReset
  obtain ⟨t, u, run, accepted, same⟩ := run_refines k s noReset
  exact ⟨t, u, run, accepted, same,
    fun ready => (outputs_of_ready ready).trans (readyOutputs_of_timeless same)⟩

end Sys2Proof.Machine
end

section
/-! The decoder's verdict on a word: which words are malformed, and what a decoded command is
(30_encoding.md R53, R54, R56). -/

namespace Sys2Proof

/-! ## Malformed words -/

/-- When a cause is reported, by OP, LEN and HAS_STREAM alone (R54). -/
def Malformed.Reported (hs : Bool) (op : BitVec 4) (len : BitVec 5) : Malformed → Prop
  | .badOp => 7 ≤ op.toNat
  | .badTailLen => op = 3 ∧ len[4] = true
  | .badChunkLen => op = 5 ∧ 17 ≤ len.toNat ∧ hs = true
  | .noStream => (op = 5 ∨ op = 6) ∧ hs = false

theorem decode_error_iff (hs : Bool) (w : Cmd) (m : Malformed) :
    decode hs w = .error m ↔ m.Reported hs (cmdOp w) (cmdLen w) := by
  rcases cmdOp_cases w with op | op | op | op | op | op | op | op
  · rw [decode_op0 op, op]; cases m <;> simp [Malformed.Reported]
  · rw [decode_op1 op, op]; cases m <;> simp [Malformed.Reported]
  · rw [decode_op2 op, op]; cases m <;> simp [Malformed.Reported]
  · rw [decode_op3 op, op]
    cases hl : (cmdLen w)[4] <;> cases m <;> simp [Malformed.Reported, hl]
  · rw [decode_op4 op, op]; cases m <;> simp [Malformed.Reported]
  · rw [decode_op5 op, op]
    have tooLong : 17 ≤ (cmdLen w).toNat ↔ ¬(cmdLen w).toNat ≤ 16 := by omega
    cases hs with
    | false => cases m <;> simp [Malformed.Reported]
    | true =>
      by_cases short : (cmdLen w).toNat ≤ 16
      · rw [if_pos rfl, if_pos short]; cases m <;> simp [Malformed.Reported, tooLong, short]
      · rw [if_pos rfl, if_neg short]; cases m <;> simp [Malformed.Reported, tooLong, short]
  · rw [decode_op6 op, op]; cases hs <;> cases m <;> simp [Malformed.Reported]
  · rw [decode_reserved op]
    have other (k : BitVec 4) (hk : k.toNat < 7) : cmdOp w ≠ k := by rintro rfl; omega
    cases m <;> simp [Malformed.Reported, op, other]

/-! ## Decoded commands -/

/-- What the decoder reads is a legal command of the build (R51, R74). -/
theorem decode_ok_legal {hs : Bool} {w : Cmd} {i : Instr} (h : decode hs w = .ok i) :
    i.wf = true ∧ i.present hs = true := by
  rcases cmdOp_cases w with op | op | op | op | op | op | op | op
  · rw [decode_op0 op] at h; cases h; exact ⟨rfl, rfl⟩
  · rw [decode_op1 op] at h; cases h; exact ⟨rfl, rfl⟩
  · rw [decode_op2 op] at h; cases h; exact ⟨rfl, rfl⟩
  · rw [decode_op3 op] at h
    split_ifs at h with long
    cases h
    exact ⟨by simpa [Instr.wf] using long, rfl⟩
  · rw [decode_op4 op] at h; cases h; exact ⟨rfl, rfl⟩
  · rw [decode_op5 op] at h
    split_ifs at h with present short
    cases h
    exact ⟨decide_eq_true short, present⟩
  · rw [decode_op6 op] at h
    split_ifs at h with present
    cases h
    exact ⟨rfl, present⟩
  · rw [decode_reserved op] at h; cases h

theorem cmdData_extractLsb' (w : Cmd) {lo n : Nat} (h : lo + n ≤ 128) :
    (cmdData w).extractLsb' lo n = w.extractLsb' (64 + lo) n := by
  refine BitVec.eq_of_getLsbD_eq fun i hi => ?_
  simp [cmdData, hi, (by omega : lo + i < 128), Nat.add_assoc]

end Sys2Proof

namespace Sys2Proof.Machine

/-- Settles O14: decoding checks what makes a command legal. -/
theorem decodedCommandIsWellFormed : Obligations.DecodedCommandIsWellFormed := fun _ _ _ =>
  decode_ok_legal

/-- Settles O15: nine closed words. -/
theorem wordsOfTheSpecDecode : Obligations.WordsOfTheSpecDecode := by
  unfold Obligations.WordsOfTheSpecDecode
  decide

/-- Settles O16, one opcode at a time: slices of DATA are slices of CMD 64 bits higher. -/
theorem decoderReadsTheFields : Obligations.DecoderReadsTheFields := by
  intro hs w
  have len4 : (cmdLen w)[4] = w[12] := by simp [cmdLen]
  refine ⟨fun op => decode_op0 op, fun op => ?_, fun op => ?_, fun op short => ?_, fun op long => ?_,
    fun op => ?_, fun op => ?_, fun op => ?_, fun op => decode_reserved op⟩
  · rw [decode_op1 op, cmdData_extractLsb' w (by omega)]
  · rw [decode_op2 op, cmdData_extractLsb' w (by omega), cmdData_extractLsb' w (by omega)]
  · rw [decode_op3 op, len4, short, cmdData_extractLsb' w (by omega)]; rfl
  · rw [decode_op3 op, len4, long]; rfl
  · rw [decode_op4 op, cmdData_extractLsb' w (by omega), cmdData_extractLsb' w (by omega)]
  · rw [decode_op5 op]; cases hs <;> rfl
  · rw [decode_op6 op]; cases hs <;> rfl

/-- Settles O18: the causes are reported exactly so, and CmdError sets ERR. -/
theorem exactlyTheseWordsAreMalformed : Obligations.ExactlyTheseWordsAreMalformed :=
  ⟨fun hs w => ⟨decode_error_iff hs w .badOp, decode_error_iff hs w .badTailLen,
    decode_error_iff hs w .badChunkLen, decode_error_iff hs w .noStream⟩, rfl, rfl, rfl, rfl,
    fun _ _ _ malformed => ⟨_, accept_of_error malformed, cmdError_err _ _⟩⟩

/-- Settles O35: CmdError writes no other register, and a decoded command is legal. -/
theorem decodeBeforeWrite : Obligations.DecodeBeforeWrite := by
  intro s t w h
  refine ⟨fun m malformed => ?_, fun i decoded => ?_⟩
  · rw [accept_of_error malformed, cmdError_eq] at h
    obtain rfl := Host.Outcome.next.inj h
    rfl
  · obtain ⟨wf, present⟩ := decode_ok_legal decoded
    rw [accept_of_ok decoded] at h
    exact exec_err_frame (s := s.count) wf present h

end Sys2Proof.Machine
end

section
/-! The rows of the opcode table against the decoder (30_encoding.md R58). -/

namespace Sys2Proof

/-- The mask of every row but FINAL's keeps OP. -/
theorem and_opMask_eq_iff (w : Cmd) {k : Nat} (hk : k < 16) :
    w.extractLsb' 0 16 &&& 0x000F#16 = BitVec.ofNat 16 k ↔ (cmdOp w).toNat = k := by
  have masked : w.extractLsb' 0 16 &&& 0x000F#16 = 0#12 ++ cmdOp w := by
    ext i hi
    rw [BitVec.getElem_and, BitVec.getElem_extractLsb', BitVec.getElem_append, Nat.zero_add]
    interval_cases i <;> simp [cmdOp]
  rw [masked, ← BitVec.toNat_inj, BitVec.toNat_append, BitVec.toNat_ofNat, BitVec.toNat_ofNat]
  simp [Nat.mod_eq_of_lt (by omega : k < 65536)]

/-- FINAL's mask keeps LEN[4] beside OP. -/
theorem and_finalMask_eq_iff (w : Cmd) :
    w.extractLsb' 0 16 &&& 0x100F#16 = 0x0003#16 ↔ (cmdOp w).toNat = 3 ∧ (cmdLen w)[4] = false := by
  have masked : w.extractLsb' 0 16 &&& 0x100F#16 =
      0#3 ++ BitVec.ofBool (cmdLen w)[4] ++ 0#8 ++ cmdOp w := by
    ext i hi
    rw [BitVec.getElem_and, BitVec.getElem_extractLsb', Nat.zero_add, BitVec.getElem_append]
    simp only [BitVec.getElem_append]
    interval_cases i <;> simp [cmdOp, cmdLen]
  rw [masked]
  generalize cmdOp w = op, (cmdLen w)[4] = b
  revert op b
  decide

theorem rowSelects_iff (hs : Bool) (w : Cmd) :
    ∀ r ∈ opTable, rowSelects hs r w = true ↔ ∃ i, decode hs w = .ok i ∧ mnemonic i = r.mnemonic := by
  suffices rows :
      ((cmdOp w).toNat = 0 ↔ ∃ i, decode hs w = .ok i ∧ mnemonic i = "NOP") ∧
      ((cmdOp w).toNat = 1 ↔ ∃ i, decode hs w = .ok i ∧ mnemonic i = "INIT") ∧
      ((cmdOp w).toNat = 2 ↔ ∃ i, decode hs w = .ok i ∧ mnemonic i = "BLOCK") ∧
      ((cmdOp w).toNat = 3 ∧ (cmdLen w)[4] = false ↔ ∃ i, decode hs w = .ok i ∧ mnemonic i = "FINAL") ∧
      ((cmdOp w).toNat = 4 ↔ ∃ i, decode hs w = .ok i ∧ mnemonic i = "LOADH") ∧
      (((cmdOp w).toNat = 5 ∧ (cmdLen w).toNat ≤ 16) ∧ hs = true ↔
        ∃ i, decode hs w = .ok i ∧ mnemonic i = "UPDATE") ∧
      ((cmdOp w).toNat = 6 ∧ hs = true ↔ ∃ i, decode hs w = .ok i ∧ mnemonic i = "DIGEST") by
    simpa [opTable, rowSelects, and_opMask_eq_iff, and_finalMask_eq_iff] using rows
  rcases cmdOp_cases w with op | op | op | op | op | op | op | op
  · rw [decode_op0 op]; simp [op, mnemonic]
  · rw [decode_op1 op]; simp [op, mnemonic]
  · rw [decode_op2 op]; simp [op, mnemonic]
  · rw [decode_op3 op]; cases hl : (cmdLen w)[4] <;> simp [op, mnemonic]
  · rw [decode_op4 op]; simp [op, mnemonic]
  · rw [decode_op5 op]
    cases hs <;> by_cases hl : (cmdLen w).toNat ≤ 16 <;> simp [op, mnemonic, hl]
  · rw [decode_op6 op]; cases hs <;> simp [op, mnemonic]
  · rw [decode_reserved op]
    have other (k : Nat) (hk : k < 7) : (cmdOp w).toNat ≠ k := by omega
    simp [other]

/-- The table has one row of each mnemonic. -/
theorem opTable_filter_mnemonic (i : Instr) :
    (opTable.filter fun r => mnemonic i = r.mnemonic).map (·.mnemonic) = [mnemonic i] := by
  cases i <;> simp [opTable, mnemonic]

theorem opTable_needsStream : ∀ r ∈ opTable, r.needsStream = true →
    r.mask = 0x000F#16 ∧ (r.pattern = 0x0005#16 ∨ r.pattern = 0x0006#16) := by
  decide

/-- Settles O19: a row is selected by the words that decode to a command of its mnemonic. -/
theorem tableRowsMatchTheDecoder : Obligations.TableRowsMatchTheDecoder := by
  refine ⟨fun hs w => ?_, fun r hr stream w row => ?_⟩
  · have selects := rowSelects_iff hs w
    cases decoded : decode hs w with
    | ok i =>
      have byName : opTable.filter (rowSelects hs · w) = opTable.filter fun r => mnemonic i = r.mnemonic :=
        List.filter_congr fun r hr => by
          rw [Bool.eq_iff_iff, selects r hr, decoded, decide_eq_true_iff]
          simp
      rw [byName, opTable_filter_mnemonic]
    | error m =>
      have none : opTable.filter (rowSelects hs · w) = [] :=
        List.filter_eq_nil_iff.mpr fun r hr => by
          rw [selects r hr, decoded]
          simp
      rw [none, List.map_nil]
  · suffices op : (cmdOp w).toNat = 5 ∨ (cmdOp w).toNat = 6 from
      (decode_error_iff false w .noStream).mpr ⟨op.imp BitVec.eq_of_toNat_eq BitVec.eq_of_toNat_eq, rfl⟩
    obtain ⟨mask, update | digest⟩ := opTable_needsStream r hr stream
    · exact .inl ((and_opMask_eq_iff w (by omega)).mp (update ▸ mask ▸ row))
    · exact .inr ((and_opMask_eq_iff w (by omega)).mp (digest ▸ mask ▸ row))

end Sys2Proof
end

section
/-! Decoding an encoded command (30_encoding.md R48, R50, R51). -/

namespace Sys2Proof.Machine

/-! ## A data field by its lanes -/

theorem getLsbD_eq_lane {w : Nat} (d : BitVec w) (i : Nat) :
    d.getLsbD i = (lane d (i / 8)).getLsbD (i % 8) := by
  simp [lane, Nat.mod_lt, Nat.div_add_mod]

theorem data_ext_lane {c d : Data} (h : ∀ i, i < 16 → lane c i = lane d i) : c = d := by
  refine BitVec.eq_of_getLsbD_eq fun i hi => ?_
  rw [getLsbD_eq_lane, h _ (by omega), ← getLsbD_eq_lane]

theorem keepLanes_eq_iff (len : BitVec 5) (chunk : Data) :
    keepLanes len chunk = chunk ↔ ∀ j, len.toNat ≤ j → j < 16 → lane chunk j = 0 := by
  constructor
  · intro kept j hle _
    rw [← kept, lane_keepLanes, if_neg (by omega)]
  · intro zero
    refine data_ext_lane fun j hj => ?_
    rw [lane_keepLanes]
    split_ifs with read
    · rfl
    · exact (zero j (by omega) hj).symm

/-! ## The round trip -/

theorem decode_encode {hs : Bool} {i : Instr} (wf : i.wf = true) (present : i.present hs = true) :
    decode hs (encode i) = .ok i.dropIgnored := by
  obtain ⟨op, len, data, tot⟩ := Laws.EncodeFields.of_pack i
  cases i with
  | nop => rw [decode_op0 op]; rfl
  | init seed => rw [decode_op1 op, data, dataField, low_zeroExtend _ (by omega)]; rfl
  | block k1 k2 => rw [decode_op2 op, data, dataField, low_append, high_append]; rfl
  | final length tail total =>
    rw [decode_op3 op, len, data, tot, dataField, low_zeroExtend _ (by omega), lenField,
      if_neg (by simpa [Instr.wf] using wf)]
    rfl
  | loadh h1 h2 => rw [decode_op4 op, data, dataField, low_append, high_append]; rfl
  | update length chunk =>
    rw [decode_op5 op, len, data, lenField, if_pos (of_decide_eq_true wf),
      if_pos (show hs = true from present)]
    rfl
  | digest => rw [decode_op6 op, if_pos (show hs = true from present)]; rfl

/-- What a command ignores of its operands has no effect. -/
theorem exec_dropIgnored (i : Instr) (s : State) : exec i.dropIgnored s = exec i s := by
  cases i with
  | update len chunk => exact execUpdate_congr s fun j hj => by rw [lane_keepLanes, if_pos hj]
  | nop | init _ | block _ _ | final _ _ _ | loadh _ _ | digest => rfl

theorem dropIgnored_eq_iff (i : Instr) :
    i.dropIgnored = i ↔ ∀ (len : BitVec 5) (chunk : Data) (j : Nat), i = .update len chunk →
      len.toNat ≤ j → j < 16 → lane chunk j = 0 := by
  cases i with
  | update len chunk =>
    rw [Instr.dropIgnored, Instr.update.injEq, and_iff_right rfl, keepLanes_eq_iff]
    refine ⟨fun zero _ _ j same => ?_, fun zero j => zero _ _ j rfl⟩
    cases same
    exact zero j
  | nop | init _ | block _ _ | final _ _ _ | loadh _ _ | digest => exact iff_of_true rfl nofun

/-- Settles O13: the fields of the encoded word decode to the command but for the lanes it ignores, which
its effect does not read. -/
theorem decodeEncodeRoundTrip : Obligations.DecodeEncodeRoundTrip :=
  ⟨fun _ _ wf present => decode_encode wf present, dropIgnored_eq_iff, fun s i wf present => by
    rw [accept_of_ok (decode_encode wf present), exec_dropIgnored]⟩

end Sys2Proof.Machine
end

section
/-! Ignored bits: the encoder writes them as 0, and no command reads them (30_encoding.md R50, R51). -/

namespace Sys2Proof

/-! ## The encoder -/

theorem packCmd_bits_7_4 (op : BitVec 4) (len : BitVec 5) (data : Data) (tot : Word) :
    (packCmd op len data tot).extractLsb' 4 4 = 0 := by
  rw [packCmd, BitVec.extractLsb'_append_eq_of_le le_rfl]
  exact BitVec.extractLsb'_append_eq_right

theorem packCmd_bits_63_13 (op : BitVec 4) (len : BitVec 5) (data : Data) (tot : Word) :
    (packCmd op len data tot).extractLsb' 13 51 = 0 := by
  rw [packCmd, BitVec.extractLsb'_append_eq_of_le (by omega),
    BitVec.extractLsb'_append_eq_of_le (by omega), BitVec.extractLsb'_append_eq_of_le (by omega)]
  exact BitVec.extractLsb'_append_eq_right

theorem high_zeroExtend {n : Nat} (x : BitVec n) (m : Nat) : (x.zeroExtend 128).extractLsb' n m = 0 := by
  refine BitVec.eq_of_getLsbD_eq fun i hi => ?_
  simp

end Sys2Proof

namespace Sys2Proof.Machine

/-- The encoder writes as 0 the fields, DATA bits and lanes its command ignores (R51). -/
theorem encode_ignored (i : Instr) :
    (cmdOp (encode i) ≠ 3 → cmdTot (encode i) = 0 ∧ (cmdOp (encode i) ≠ 5 → cmdLen (encode i) = 0)) ∧
    (cmdOp (encode i) = 0 ∨ cmdOp (encode i) = 6 → cmdData (encode i) = 0) ∧
    (cmdOp (encode i) = 1 → (cmdData (encode i)).extractLsb' 32 96 = 0) ∧
    (cmdOp (encode i) = 3 → (cmdData (encode i)).extractLsb' 120 8 = 0) ∧
    (cmdOp (encode i) = 5 → ∀ j, (cmdLen (encode i)).toNat ≤ j → j < 16 →
      lane (cmdData (encode i)) j = 0) := by
  obtain ⟨op, len, data, tot⟩ := Laws.EncodeFields.of_pack i
  rw [op, len, data, tot]
  cases i with
  | init seed =>
    have high : (dataField (.init seed)).extractLsb' 32 96 = 0 := high_zeroExtend seed 96
    simp [opcode, totField, lenField, high]
  | final length tail total =>
    have high : (dataField (.final length tail total)).extractLsb' 120 8 = 0 := high_zeroExtend tail 8
    simp [opcode, high]
  | update length chunk =>
    have high (j : Nat) (hj : length.toNat ≤ j) : lane (dataField (.update length chunk)) j = 0 := by
      rw [dataField, lane_keepLanes, if_neg (by omega)]
    exact ⟨fun _ => ⟨rfl, (absurd rfl ·)⟩, nofun, nofun, nofun, fun _ j hj _ => high j hj⟩
  | nop | block _ _ | loadh _ _ | digest => simp [opcode, totField, lenField, dataField]

/-! ## The decoder -/

/-- The verdict depends on OP, and on LEN for FINAL and UPDATE only. -/
theorem decode_error_congr {w w' : Cmd} (hs : Bool) (m : Malformed) (op : cmdOp w = cmdOp w')
    (len : cmdOp w = 3 ∨ cmdOp w = 5 → cmdLen w = cmdLen w') :
    decode hs w = .error m ↔ decode hs w' = .error m := by
  rw [decode_error_iff, decode_error_iff, ← op]
  cases m with
  | badOp | noStream => rfl
  | badTailLen => exact and_congr_right fun final => by rw [len (.inl final)]
  | badChunkLen => exact and_congr_right fun update => by rw [len (.inr update)]

theorem accept_congr {w w' : Cmd} {s : State} (h : decode s.hasStream w = decode s.hasStream w') :
    accept w s = accept w' s := by
  rw [accept, accept, h]

/-! ## FINAL reads its tail bytes below tl only (40_block_mixer.md R62) -/

theorem tailKeysFrom_congr {t t' : Vector Byte 15} {n : Nat} (same : ∀ i, i < n → byteAt t i = byteAt t' i)
    (k : Word × Word) : tailKeysFrom t n k = tailKeysFrom t' n k := by
  induction n generalizing k with
  | zero => rfl
  | succ n ih =>
    rw [tailKeysFrom, tailKeysFrom, same n (by omega)]
    simp only [ih fun i hi => same i (by omega)]

theorem finalize_congr {t t' : Vector Byte 15} {tl : BitVec 4}
    (same : ∀ i, i < tl.toNat → byteAt t i = byteAt t' i) (h1 h2 total : Word) :
    finalize h1 h2 t tl total = finalize h1 h2 t' tl total := by
  rw [finalize, finalize, tailKeys, tailKeys, tailKeysFrom_congr same]

theorem byteAt_tailBytes (data : Data) {i : Nat} (hi : i < 15) :
    byteAt (tailBytes (data.extractLsb' 0 120)) i = lane data i := by
  rw [tailBytes, byteAt_ofFn _ hi, lane, lane]
  exact BitVec.extractLsb'_extractLsb'_of_le (by simp only; omega)

theorem exec_final_congr {len : BitVec 5} {c d : Data} (total : Word) (s : State)
    (same : ∀ i, i < len.toNat % 16 → lane c i = lane d i) :
    exec (.final len (c.extractLsb' 0 120) total) s = exec (.final len (d.extractLsb' 0 120) total) s := by
  have tl : (tailLen len).toNat = len.toNat % 16 := by simp [tailLen]
  have bytes (i : Nat) (hi : i < (tailLen len).toNat) :
      byteAt (tailBytes (c.extractLsb' 0 120)) i = byteAt (tailBytes (d.extractLsb' 0 120)) i := by
    rw [byteAt_tailBytes _ (by omega), byteAt_tailBytes _ (by omega), same i (by omega)]
  simp only [exec, execFinal, finalize_congr bytes]

/-- Settles O17: words that agree in what their command reads decode alike, but for FINAL's tail and
UPDATE's chunk, of which the effect reads the lanes below tl and LEN. -/
theorem ignoredBitsHaveNoEffect : Obligations.IgnoredBitsHaveNoEffect := by
  refine ⟨fun i => ⟨packCmd_bits_7_4 _ _ _ _, packCmd_bits_63_13 _ _ _ _, encode_ignored i⟩,
    fun hs w w' m op len => decode_error_congr hs m op len, fun s w w' op =>
    ⟨fun len data tot => accept_congr ?_, fun none => accept_congr ?_, fun init seed => accept_congr ?_,
      fun pair data => accept_congr ?_, fun final len tot lanes => ?_, fun update len lanes => ?_⟩⟩
  · rw [decode, decode, op, len, data, tot]
  · rcases none with nop | digest
    · rw [decode_op0 nop, decode_op0 (op ▸ nop)]
    · rw [decode_op6 digest, decode_op6 (op ▸ digest)]
  · rw [decode_op1 init, decode_op1 (op ▸ init), seed]
  · rcases pair with block | loadh
    · rw [decode_op2 block, decode_op2 (op ▸ block), data]
    · rw [decode_op4 loadh, decode_op4 (op ▸ loadh), data]
  · rw [accept, accept, decode_op3 final, decode_op3 (op ▸ final), ← len, ← tot]
    split_ifs
    · rfl
    · exact exec_final_congr _ _ lanes
  · rw [accept, accept, decode_op5 update, decode_op5 (op ▸ update), ← len]
    split_ifs
    · exact execUpdate_congr _ lanes
    · rfl
    · rfl

end Sys2Proof.Machine
end

section
/-! The assembler's commands are legal (30_encoding.md R57). -/

namespace Sys2Proof.Machine

theorem updateOf_wf {bytes : List Byte} (short : bytes.length ≤ 16) : (updateOf bytes).wf = true := by
  simp only [updateOf, Instr.wf, BitVec.toNat_ofNat, decide_eq_true_eq]
  omega

theorem finalOf_wf {bytes : List Byte} (short : bytes.length ≤ 15) (total : Nat) :
    (finalOf bytes total).wf = true := by
  have low : (BitVec.ofNat 5 bytes.length)[4] = false := by
    rw [BitVec.getElem_eq_testBit_toNat, BitVec.toNat_ofNat]
    exact Nat.testBit_lt_two_pow (by omega)
  simp [finalOf, Instr.wf, low]

theorem length_piece_le (bytes : List Byte) (j : Nat) : (piece bytes j).length ≤ 16 := by
  rw [piece, List.length_take]
  omega

theorem feed_wf {bytes : List Byte} : ∀ i ∈ feed bytes, i.wf = true := by
  intro i hi
  obtain ⟨j, _, rfl⟩ := List.mem_map.mp hi
  exact updateOf_wf (length_piece_le bytes j)

theorem oneShotProgram_wf {seed : Seed} {bytes : List Byte} :
    ∀ i ∈ oneShotProgram seed bytes, i.wf = true := by
  intro i hi
  simp only [oneShotProgram, List.mem_append, List.mem_cons, List.mem_map, List.not_mem_nil,
    or_false] at hi
  rcases hi with (rfl | ⟨j, _, rfl⟩) | rfl
  · rfl
  · rfl
  · exact finalOf_wf (by rw [List.length_drop]; omega) _

theorem streamProgram_wf {seed : Seed} {bytes : List Byte} :
    ∀ i ∈ streamProgram seed bytes, i.wf = true := by
  intro i hi
  simp only [streamProgram, List.mem_append, List.mem_cons, List.not_mem_nil, or_false] at hi
  rcases hi with (rfl | fed) | rfl
  · rfl
  · exact feed_wf i fed
  · rfl

theorem inRange_eq_some {ok : Bool} {is : List Instr} {ws : List Cmd} (h : inRange ok is = some ws) :
    ok = true ∧ ws = is.map encode := by
  rw [inRange] at h
  split_ifs at h with hok
  exact ⟨hok, (Option.some.inj h).symm⟩

/-- A line but `.word` that the assembler accepts is a list of legal commands, encoded. -/
theorem assembleLine_legal {line : AsmLine} {ws : List Cmd} (h : assembleLine line = some ws)
    (notWord : ∀ w, line ≠ .word w) :
    ∃ is : List Instr, ws = is.map encode ∧ ∀ i ∈ is, i.wf = true := by
  cases line with
  | word w => exact absurd rfl (notWord w)
  | nop | init _ | loadh _ _ | block _ | digest =>
    exact ⟨_, (inRange_eq_some h).2, List.forall_mem_singleton.mpr rfl⟩
  | final bytes total =>
    obtain ⟨ok, words⟩ := inRange_eq_some h
    exact ⟨_, words, List.forall_mem_singleton.mpr (finalOf_wf (of_decide_eq_true ok).1 total)⟩
  | update bytes =>
    obtain ⟨ok, words⟩ := inRange_eq_some h
    exact ⟨_, words, List.forall_mem_singleton.mpr (updateOf_wf (of_decide_eq_true ok))⟩
  | feed bytes => exact ⟨_, (inRange_eq_some h).2, feed_wf⟩
  | oneShot seed bytes => exact ⟨_, (inRange_eq_some h).2, oneShotProgram_wf⟩
  | stream seed bytes => exact ⟨_, (inRange_eq_some h).2, streamProgram_wf⟩

/-- Every command exists where the streaming module is present (R52). -/
theorem present_of_stream (i : Instr) : i.present true = true := by
  cases i <;> rfl

/-- Settles O57: an emitted word is a legal command's, so it decodes to that command without its ignored
lanes, whose encoding is the word. -/
theorem assemblerEmitsOnlyLegalWords : Obligations.AssemblerEmitsOnlyLegalWords := by
  intro line ws h notWord w hw
  obtain ⟨is, rfl, wf⟩ := assembleLine_legal h notWord
  obtain ⟨i, hi, rfl⟩ := List.mem_map.mp hw
  exact ⟨i.dropIgnored, decode_encode (wf i hi) (present_of_stream i), encode_dropIgnored i⟩

end Sys2Proof.Machine
end

section
/-! FEED carries the bytes in order (30_encoding.md R57). -/

namespace Sys2Proof.Machine

/-! ## The chunk of one UPDATE -/

theorem lane_packBytes_zero (b : Byte) (bs : List Byte) : lane (packBytes (b :: bs)) 0 = b := by
  refine BitVec.eq_of_getLsbD_eq fun j hj => ?_
  simp [lane, packBytes, hj, (by omega : j < 128)]

theorem lane_packBytes_succ (b : Byte) (bs : List Byte) {i : Nat} (hi : i + 1 < 16) :
    lane (packBytes (b :: bs)) (i + 1) = lane (packBytes bs) i := by
  refine BitVec.eq_of_getLsbD_eq fun j hj => ?_
  have above : b.getLsbD (8 * (i + 1) + j) = false := BitVec.getLsbD_of_ge b _ (by omega)
  have shift : 8 * (i + 1) + j - 8 = 8 * i + j := by omega
  have inside : 8 * (i + 1) + j < 128 := by omega
  have notFirst : ¬8 * (i + 1) + j < 8 := by omega
  rw [lane, lane, packBytes, BitVec.getLsbD_extractLsb', BitVec.getLsbD_extractLsb', BitVec.getLsbD_or,
    BitVec.getLsbD_shiftLeft, BitVec.zeroExtend_eq_setWidth, BitVec.getLsbD_setWidth, above, shift]
  simp only [inside, notFirst, decide_true, decide_false, Bool.not_false, Bool.true_and, Bool.and_false,
    Bool.or_false]

theorem lane_packBytes (bytes : List Byte) {i : Nat} (hi : i < 16) :
    lane (packBytes bytes) i = seqByte bytes i := by
  induction bytes generalizing i with
  | nil => simp [packBytes, seqByte, lane]
  | cons b bs ih =>
    cases i with
    | zero => exact lane_packBytes_zero b bs
    | succ i => exact (lane_packBytes_succ b bs hi).trans (ih (by omega))

theorem firstBytes_seqByte (bytes : List Byte) : firstBytes (seqByte bytes) bytes.length = bytes :=
  List.ext_getElem (by simp) fun i _ hi => by rw [getElem_firstBytes, seqByte_of_lt hi]

theorem chunkBytes_keepLanes (len : BitVec 5) (chunk : Data) :
    chunkBytes len (keepLanes len chunk) = chunkBytes len chunk :=
  firstBytes_congr fun i hi => by rw [lane_keepLanes, if_pos hi]

theorem chunkBytes_packBytes {bytes : List Byte} (short : bytes.length ≤ 16) :
    chunkBytes (BitVec.ofNat 5 bytes.length) (packBytes bytes) = bytes := by
  have len : (BitVec.ofNat 5 bytes.length).toNat = bytes.length := by
    rw [BitVec.toNat_ofNat]; omega
  rw [chunkBytes, len, firstBytes_congr fun i hi => lane_packBytes bytes (by omega), firstBytes_seqByte]

theorem decode_encode_updateOf {bytes : List Byte} (short : bytes.length ≤ 16) :
    decode true (encode (updateOf bytes)) =
      .ok (.update (BitVec.ofNat 5 bytes.length)
        (keepLanes (BitVec.ofNat 5 bytes.length) (packBytes bytes))) :=
  decode_encode (updateOf_wf short) rfl

/-! ## FEED -/

theorem fedBy_updates {pieces : List (List Byte)} (short : ∀ p ∈ pieces, p.length ≤ 16) :
    fedBy ((pieces.map updateOf).map encode) = pieces.flatten := by
  induction pieces with
  | nil => rfl
  | cons p ps ih =>
    obtain ⟨hp, hps⟩ := List.forall_mem_cons.mp short
    simp only [List.map_cons, fedBy, decode_encode_updateOf hp, List.flatten_cons, ih hps]
    rw [chunkBytes_keepLanes, chunkBytes_packBytes hp]

theorem flatten_pieces (bytes : List Byte) (n : Nat) :
    ((List.range n).map (piece bytes)).flatten = bytes.take (16 * n) := by
  induction n with
  | zero => rfl
  | succ n ih => simp [List.range_succ, ih, piece, Nat.mul_succ, List.take_add]

theorem feed_eq_map_pieces (bytes : List Byte) :
    feed bytes = ((List.range ((bytes.length + 15) / 16)).map (piece bytes)).map updateOf := by
  rw [feed, List.map_map]
  rfl

theorem fedBy_feed (bytes : List Byte) : fedBy ((feed bytes).map encode) = bytes := by
  rw [feed_eq_map_pieces, fedBy_updates, flatten_pieces, List.take_of_length_le (by omega)]
  intro p hp
  obtain ⟨j, _, rfl⟩ := List.mem_map.mp hp
  exact length_piece_le bytes j

theorem length_feed (bytes : List Byte) : (feed bytes).length = (bytes.length + 15) / 16 := by
  rw [feed, List.length_map, List.length_range]

theorem streamWord_feed (bytes : List Byte) : ∀ w ∈ (feed bytes).map encode, streamWord w = true := by
  intro w hw
  obtain ⟨i, hi, rfl⟩ := List.mem_map.mp hw
  obtain ⟨j, _, rfl⟩ := List.mem_map.mp hi
  rw [streamWord, decode_encode_updateOf (length_piece_le bytes j)]
  rfl

end Sys2Proof.Machine
end

section
/-! A stream's digest is the one-shot digest of the bytes fed (41_streaming_hasher.md R82, R84, R85). -/

namespace Sys2Proof.Machine

section
variable {s t : State} {st : StreamRegs} {fed : List Byte} {seed : Seed}

/-! ## DIGEST -/

theorem StreamTracks.digestTailLen_eq (tracks : StreamTracks fed st) :
    digestTailLen st = BitVec.ofNat 4 fed.length := by
  obtain ⟨total, _⟩ := tracks
  rw [digestTailLen, total]
  exact BitVec.eq_of_toNat_eq (by simp)

/-- The window ends with the bytes behind the complete blocks, so no tail byte is free. -/
theorem StreamTracks.digestTail_eq (tracks : StreamTracks fed st) : digestTail st = seqTail fed := by
  have tl : (digestTailLen st).toNat = fed.length % 16 := by
    rw [tracks.digestTailLen_eq, BitVec.toNat_ofNat]
  obtain ⟨_, _, _, tailcnt, window⟩ := tracks
  refine congrArg Vector.ofFn (funext fun i => ?_)
  simp only [tl]
  split_ifs with inTail covered
  · have hlt : st.tailcnt.toNat + i.1 - fed.length % 16 < st.window.length := by
      rw [length_window]; omega
    have byte : st.window[st.tailcnt.toNat + i.1 - fed.length % 16] =
        byteAt st.tail (st.tailcnt.toNat + i.1 - fed.length % 16) := getElem_firstBytes _ _ _ hlt
    rw [← byte, seqByte_of_lt (by omega)]
    simp only [window, getElem_lastOf]
    congr 1
    omega
  · omega
  · rfl

theorem exec_digest_oneShot (hs : s.stream = some st) (tracks : StreamTracks fed st)
    (acc : AccTracks seed fed s) (h : exec .digest s = .next t) : (t.d1, t.d2) = oneShot seed fed := by
  rw [exec_digest_present hs] at h
  obtain rfl := Host.Outcome.next.inj h
  obtain ⟨total, _⟩ := id tracks
  simp only [State.occupy_d1, State.occupy_d2, State.setDigest_d1, State.setDigest_d2, Prod.mk.eta]
  rw [oneShot, ← acc, tracks.digestTailLen_eq, tracks.digestTail_eq, total]

/-! ## Sequences of accepted words -/

theorem exec_next (i : Instr) (s : State) : ∃ t, exec i s = .next t := by
  obtain ⟨e, _, effect⟩ := exec_effect i s
  exact ⟨_, effect s (SameRegs.refl s)⟩

theorem acceptAll_append {ws : List Cmd} (ws' : List Cmd) (h : acceptAll ws s = .next t) :
    acceptAll (ws ++ ws') s = acceptAll ws' t := by
  induction ws generalizing s with
  | nil => rw [List.nil_append, Host.Outcome.next.inj h]
  | cons w ws ih =>
    obtain ⟨e, effect⟩ := accept_effect w s
    rw [acceptAll_cons ws (effect s rfl)] at h
    rw [List.cons_append, acceptAll_cons _ (effect s rfl), ih h]

theorem streamWord_iff (w : Cmd) :
    streamWord w = true ↔ ∃ i, decode true w = .ok i ∧ keepsStream i = true := by
  rw [streamWord]
  cases decode true w <;> simp

/-- A word of a stream feeds what its command feeds. -/
theorem fedAfter_append_fedBy {w : Cmd} {i : Instr} (decoded : decode true w = .ok i)
    (keeps : keepsStream i = true) (fed : List Byte) (ws : List Cmd) :
    fedAfter fed i ++ fedBy ws = fed ++ fedBy (w :: ws) := by
  rw [fedBy, decoded]
  cases i with
  | update len chunk =>
    obtain ⟨wf, _⟩ := decode_ok_legal decoded
    rw [fedAfter, if_pos (of_decide_eq_true wf), List.append_assoc]
  | nop | final _ _ _ | digest => rfl
  | init _ | block _ _ | loadh _ _ => exact absurd keeps Bool.false_ne_true

/-- Words that may stand in a stream keep the registers and the pair in step with the bytes fed. -/
theorem acceptAll_streamWords {ws : List Cmd} (words : ∀ w ∈ ws, streamWord w = true)
    (hs : s.stream = some st) (tracks : StreamTracks fed st) (acc : AccTracks seed fed s) :
    ∃ t st', acceptAll ws s = .next t ∧ t.stream = some st' ∧ StreamTracks (fed ++ fedBy ws) st' ∧
      AccTracks seed (fed ++ fedBy ws) t := by
  induction ws generalizing s st fed with
  | nil => exact ⟨s, st, rfl, hs, by rwa [fedBy, List.append_nil], by rwa [fedBy, List.append_nil]⟩
  | cons w ws ih =>
    obtain ⟨first, rest⟩ := List.forall_mem_cons.mp words
    obtain ⟨i, decoded, keeps⟩ := (streamWord_iff w).mp first
    obtain ⟨u, run⟩ := exec_next i s.count
    have accepted : accept w s = .next u := by
      rw [accept_of_ok (i := i) (by rw [State.hasStream_of_some hs, decoded]), run]
    obtain ⟨st₁, stream, tracks₁⟩ := exec_streamTracks (s := s.count) hs tracks run
    have acc₁ := exec_accTracks (s := s.count) keeps hs tracks acc run
    rw [acceptAll_cons ws accepted, ← fedAfter_append_fedBy decoded keeps]
    exact ih rest stream tracks₁ acc₁

/-- INIT, words that may stand in a stream, DIGEST (R85). -/
theorem acceptAll_stream {winit wdigest : Cmd} {ws : List Cmd} (present : s.hasStream = true)
    (init : decode true winit = .ok (.init seed)) (digest : decode true wdigest = .ok .digest)
    (words : ∀ w ∈ ws, streamWord w = true) :
    ∃ t, acceptAll (winit :: ws ++ [wdigest]) s = .next t ∧ (t.d1, t.d2) = oneShot seed (fedBy ws) := by
  rw [← present] at init
  have first := (accept_of_ok init).trans (exec_init seed s.count)
  obtain ⟨pair, stream⟩ := exec_init_clears (s := s.count) present (exec_init seed s.count)
  obtain ⟨u, st, run, hs, tracks, acc⟩ := acceptAll_streamWords words stream streamTracks_reset pair
  obtain ⟨t, latched⟩ := exec_next .digest u.count
  have last : accept wdigest u = .next t := by
    rw [accept_of_ok (i := .digest) (by rw [State.hasStream_of_some hs, digest]), latched]
  refine ⟨t, ?_, exec_digest_oneShot (s := u.count) hs tracks acc latched⟩
  rw [List.cons_append, acceptAll_cons _ first, acceptAll_append _ run, acceptAll_cons _ last, acceptAll]

end

/-- Settles O55: FEED's words may stand in a stream and feed the bytes; STREAM puts INIT before and DIGEST
behind them. -/
theorem streamProgramComputesOneShot : Obligations.StreamProgramComputesOneShot := by
  refine ⟨fun bytes => ⟨?_, streamWord_feed bytes, fedBy_feed bytes⟩, fun s seed bytes present _ => ?_⟩
  · rw [List.length_map, length_feed]
  · have init : decode true (encode (.init seed)) = .ok (.init seed) := decode_encode rfl rfl
    have digest : decode true (encode .digest) = .ok .digest := decode_encode rfl rfl
    obtain ⟨t, run, latch⟩ := acceptAll_stream present init digest (streamWord_feed bytes)
    rw [fedBy_feed] at latch
    exact ⟨t, by rw [streamProgram, List.map_append]; exact run, latch⟩

end Sys2Proof.Machine
end

section
/-! The mixing functions and the block mix, piece by piece, and each piece undone
(40_block_mixer.md R60, R61, R63, R66). -/

namespace Sys2Proof.Machine

/-! ## The functions with the constants written out (R59, R60, R61, R63) -/

/-- Settles O5: each function is written so already, but for the rotation, which is core's. -/
theorem mixerFunctionsAreTheStatedOnes : Obligations.MixerFunctionsAreTheStatedOnes := by
  refine ⟨fun k => ?_, fun k => ?_, by decide, by decide, fun h1 h2 k1 k2 => ⟨?_, ?_⟩, by decide,
    fun x => ⟨_, _, rfl, rfl, rfl⟩, by decide, by decide⟩
  all_goals
    rw [← rotl64_eq_rotateLeft _ (by decide)]
    rfl

/-! ## Rotation, xor-shift and multiplication by an odd number -/

/-- Rotating by `r`, then by `64 - r`, moves every bit to its place. -/
theorem rotl64_rotl64_sub (x : Word) {r : Nat} (lo : 1 ≤ r) (hi : r ≤ 63) :
    rotl64 (rotl64 x r) (64 - r) = x := by
  refine BitVec.eq_of_getLsbD_eq fun i bit => ?_
  rw [getLsbD_rotl64 _ (by omega) bit, getLsbD_rotl64 _ (by omega) (Nat.mod_lt _ (by decide))]
  congr 1
  omega

theorem rotl64_eq_iff {x y : Word} {r : Nat} (lo : 1 ≤ r) (hi : r ≤ 63) :
    rotl64 x r = y ↔ x = rotl64 y (64 - r) := by
  constructor
  · rintro rfl
    exact (rotl64_rotl64_sub x lo hi).symm
  · rintro rfl
    have back := rotl64_rotl64_sub y (r := 64 - r) (by omega) (by omega)
    rwa [show 64 - (64 - r) = r by omega] at back

theorem rotl64_bijective {r : Nat} (lo : 1 ≤ r) (hi : r ≤ 63) :
    Function.Bijective fun x : Word => rotl64 x r :=
  (Function.bijective_iff_existsUnique _).mpr fun y =>
    ⟨rotl64 y (64 - r), (rotl64_eq_iff lo hi).mpr rfl, fun _ h => (rotl64_eq_iff lo hi).mp h⟩

/-- The shift is more than half the width, so a second xor-shift takes off what the first put on. -/
theorem xorShift_involutive : Function.Involutive xorShift := by
  intro x
  have gone : x >>> shiftF >>> shiftF = 0 := by
    rw [← BitVec.shiftRight_add]
    exact BitVec.ushiftRight_eq_zero (by decide)
  rw [xorShift, xorShift, BitVec.ushiftRight_xor_distrib, gone]
  simp

/-- An odd word is 1 plus a multiple of 2, which is nilpotent since 2^64 is 0. -/
theorem isUnit_of_odd {c : Word} (odd : c.toNat % 2 = 1) : IsUnit c := by
  have split : c = 1 + 2 * BitVec.ofNat 64 (c.toNat / 2) := by
    refine BitVec.eq_of_toNat_eq ?_
    simp [BitVec.toNat_add, BitVec.toNat_mul]
    omega
  have wraps : (2 : Word) ^ 64 = 0 := BitVec.eq_of_toNat_eq (by simp)
  have nilpotent : IsNilpotent (2 * BitVec.ofNat 64 (c.toNat / 2)) :=
    ⟨64, by rw [mul_pow, wraps, zero_mul]⟩
  rw [split]
  exact nilpotent.isUnit_one_add

theorem mul_odd_bijective {c : Word} (odd : c.toNat % 2 = 1) : Function.Bijective fun x : Word => x * c :=
  IsUnit.isUnit_iff_mulRight_bijective.mp (isUnit_of_odd odd)

theorem mulC1_odd : mulC1.toNat % 2 = 1 := by decide
theorem mulC2_odd : mulC2.toNat % 2 = 1 := by decide
theorem mulF1_odd : mulF1.toNat % 2 = 1 := by decide
theorem mulF2_odd : mulF2.toNat % 2 = 1 := by decide

theorem multipliers_odd : ∀ c ∈ [mulC1, mulC2, mulF1, mulF2], c.toNat % 2 = 1 := by
  simp [mulC1_odd, mulC2_odd, mulF1_odd, mulF2_odd]

/-! ## The functions composed of them -/

theorem mixK1_bijective : Function.Bijective mixK1 :=
  (mul_odd_bijective mulC2_odd).comp
    ((rotl64_bijective (r := rotK1) (by decide) (by decide)).comp (mul_odd_bijective mulC1_odd))

theorem mixK2_bijective : Function.Bijective mixK2 :=
  (mul_odd_bijective mulC1_odd).comp
    ((rotl64_bijective (r := rotK2) (by decide) (by decide)).comp (mul_odd_bijective mulC2_odd))

theorem fmix64_bijective : Function.Bijective fmix64 :=
  xorShift_involutive.bijective.comp <| (mul_odd_bijective mulF2_odd).comp <|
    xorShift_involutive.bijective.comp <| (mul_odd_bijective mulF1_odd).comp
      xorShift_involutive.bijective

/-! ## The block mix -/

/-- 5^-1 modulo 2^64 (R66). -/
def invMulH : Word := 0xcccccccccccccccd

theorem invMulH_mul : invMulH * mulH = 1 := by decide

theorem mul_mulH_eq_iff {x y : Word} : x * mulH = y ↔ x = y * invMulH := by
  constructor
  · rintro rfl
    rw [mul_assoc, mul_comm mulH, invMulH_mul, mul_one]
  · rintro rfl
    rw [mul_assoc, invMulH_mul, mul_one]

/-- One half of a block mix solved for the word it mixes: key `m`, addend `g`, constant `n`. -/
theorem mixHalf_eq_iff {h m g n a : Word} {r : Nat} (lo : 1 ≤ r) (hi : r ≤ 63) :
    (rotl64 (h ^^^ m) r + g) * mulH + n = a ↔ h = rotl64 ((a - n) * invMulH - g) (64 - r) ^^^ m := by
  rw [← eq_sub_iff_add_eq, mul_mulH_eq_iff, ← eq_sub_iff_add_eq, rotl64_eq_iff lo hi,
    ← BitVec.xor_left_inj m (x := h ^^^ m), BitVec.xor_assoc, BitVec.xor_self, BitVec.xor_zero]

/-- The h1 a block mix to `a` began with, beside `h2` (R66). -/
def unmixH1 (a h2 k1 : Word) : Word := rotl64 ((a - addN1) * invMulH - h2) (64 - rotH1) ^^^ mixK1 k1

/-- The h2 a block mix to `a` and `b` began with (R66). -/
def unmixH2 (a b k2 : Word) : Word := rotl64 ((b - addN2) * invMulH - a) (64 - rotH2) ^^^ mixK2 k2

theorem mixH1_eq_iff {h1 h2 k1 a : Word} : mixH1 h1 h2 k1 = a ↔ h1 = unmixH1 a h2 k1 :=
  mixHalf_eq_iff (by decide) (by decide)

theorem mixH2_eq_iff {h2 k2 a b : Word} : mixH2 a h2 k2 = b ↔ h2 = unmixH2 a b k2 :=
  mixHalf_eq_iff (by decide) (by decide)

/-- The block mix is undone in the reverse order: h2 from both halves, then h1 from `a` and h2. -/
theorem mixBlock_eq_iff {h1 h2 k1 k2 a b : Word} :
    mixBlock h1 h2 k1 k2 = (a, b) ↔ h2 = unmixH2 a b k2 ∧ h1 = unmixH1 a h2 k1 := by
  rw [mixBlock, Prod.mk.injEq, ← mixH1_eq_iff, ← mixH2_eq_iff, and_comm]
  exact and_congr_left fun first => by rw [first]

theorem mixBlock_bijective (k1 k2 : Word) :
    Function.Bijective fun p : Word × Word => mixBlock p.1 p.2 k1 k2 := by
  refine (Function.bijective_iff_existsUnique _).mpr fun ⟨a, b⟩ =>
    ⟨(unmixH1 a (unmixH2 a b k2) k1, unmixH2 a b k2), mixBlock_eq_iff.mpr ⟨rfl, rfl⟩, ?_⟩
  rintro ⟨h1, h2⟩ mixed
  obtain ⟨second, first⟩ : h2 = unmixH2 a b k2 ∧ h1 = unmixH1 a h2 k1 := mixBlock_eq_iff.mp mixed
  rw [first, second]

/-- Settles O6: each function is composed of bijections, and the block mix is solved for its inputs. -/
theorem mixerFunctionsAreBijections : Obligations.MixerFunctionsAreBijections :=
  ⟨mixK1_bijective, mixK2_bijective, fmix64_bijective,
    fun c listed => ⟨multipliers_odd c listed, mul_odd_bijective (multipliers_odd c listed)⟩,
    fun _ => rotl64_bijective, xorShift_involutive.bijective, invMulH_mul,
    fun k1 k2 => ⟨mixBlock_bijective k1 k2, fun _ _ _ _ => mixBlock_eq_iff.mp⟩⟩

end Sys2Proof.Machine
end

section
/-! The tail switch in closed form, finalization, and that the gates of its folds cannot be observed
(40_block_mixer.md R62, R64, R65, R67). -/

namespace Sys2Proof.Machine

/-! ## A word put together byte by byte -/

/-- The little-endian word of the bytes `b 0 .. b (n - 1)`. -/
def lowBytes (b : Nat → Byte) : Nat → Word
  | 0 => 0
  | n + 1 => lowBytes b n ||| (b n).zeroExtend 64 <<< (8 * n)

theorem getLsbD_lowBytes (b : Nat → Byte) (n : Nat) {i : Nat} (hi : i < 64) :
    (lowBytes b n).getLsbD i = (decide (i / 8 < n) && (b (i / 8)).getLsbD (i % 8)) := by
  induction n with
  | zero => simp [lowBytes]
  | succ n ih =>
    rw [lowBytes, BitVec.getLsbD_or, ih, getLsbD_byte_shiftLeft _ _ hi]
    rcases lt_trichotomy (i / 8) n with below | rfl | above
    · simp [below, below.ne, Nat.lt_succ_of_lt below]
    · simp
    · simp [above.ne', above.not_gt, Nat.not_lt.mpr above]

/-- The byte behind the first `n` has no bit in common with them. -/
theorem lowBytes_and_shiftLeft (b : Nat → Byte) (n : Nat) (x : Byte) :
    lowBytes b n &&& x.zeroExtend 64 <<< (8 * n) = 0 := by
  refine BitVec.eq_of_getLsbD_eq fun i hi => ?_
  rw [BitVec.getLsbD_and, getLsbD_lowBytes _ _ hi, getLsbD_byte_shiftLeft _ _ hi]
  by_cases place : i / 8 = n <;> simp [place]

theorem lowBytes_succ_of_zero {b : Nat → Byte} {n : Nat} (zero : b n = 0) :
    lowBytes b (n + 1) = lowBytes b n := by
  simp [lowBytes, zero]

/-- Bytes read as 0 add nothing. -/
theorem lowBytes_below (b : Nat → Byte) (m n : Nat) :
    lowBytes (fun i => if i < m then b i else 0) n = lowBytes b (min m n) := by
  induction n with
  | zero => simp [lowBytes]
  | succ n ih =>
    by_cases read : n < m
    · rw [show min m n = n by omega] at ih
      rw [show min m (n + 1) = n + 1 by omega, lowBytes, lowBytes, ih, if_pos read]
    · rw [lowBytes_succ_of_zero (if_neg read), ih, show min m (n + 1) = min m n by omega]

theorem le64_eq_lowBytes (b : Nat → Byte) (j : Nat) : le64 b j = lowBytes (fun i => b (j + i)) 8 := by
  simp [le64, lowBytes]

/-- Accumulating with `|`, or with any operation that is `|` where no bit is set twice. -/
theorem foldl_eq_lowBytes {op : Word → Word → Word} (disjoint : ∀ x y, x &&& y = 0 → op x y = x ||| y)
    (p : Nat → Prop) [DecidablePred p] (b : Nat → Byte) (n : Nat) :
    (List.range n).foldl (fun k i => op k (if p i then (b i).zeroExtend 64 <<< (8 * i) else 0)) 0 =
      lowBytes (fun i => if p i then b i else 0) n := by
  induction n with
  | zero => rfl
  | succ n ih =>
    have byte : (if p n then (b n).zeroExtend 64 <<< (8 * n) else 0) =
        (if p n then b n else 0).zeroExtend 64 <<< (8 * n) := by
      split_ifs <;> simp
    rw [List.range_succ, List.foldl_append, ih, List.foldl_cons, List.foldl_nil, byte,
      disjoint _ _ (lowBytes_and_shiftLeft _ n _), lowBytes]

theorem xor_eq_or_of_and_eq_zero (x y : Word) (disjoint : x &&& y = 0) : x ^^^ y = x ||| y := by
  refine BitVec.eq_of_getLsbD_eq fun i _ => ?_
  have bit : (x.getLsbD i && y.getLsbD i) = false := by
    rw [← BitVec.getLsbD_and, disjoint]
    exact BitVec.getLsbD_zero
  rw [BitVec.getLsbD_xor, BitVec.getLsbD_or]
  revert bit
  cases x.getLsbD i <;> cases y.getLsbD i <;> decide

/-! ## The tail keys -/

/-- Byte `i` of the tail, read as 0 from `tl` on. -/
def maskedTail (t : Vector Byte 15) (tl : BitVec 4) (i : Nat) : Byte := if i < tl.toNat then byteAt t i else 0

/-- The loop from byte `n - 1` down to byte 0 ORs the bytes below `n` into the keys. -/
theorem tailKeysFrom_eq (t : Vector Byte 15) (n : Nat) (k : Word × Word) :
    tailKeysFrom t n k =
      (k.1 ||| lowBytes (byteAt t) (min n 8), k.2 ||| lowBytes (fun i => byteAt t (8 + i)) (n - 8)) := by
  induction n generalizing k with
  | zero => simp [tailKeysFrom, lowBytes]
  | succ n ih =>
    rw [tailKeysFrom, ih, ih]
    split_ifs with upper
    · rw [show n + 1 - 8 = n - 8 + 1 by omega, show min (n + 1) 8 = min n 8 by omega, lowBytes,
        BitVec.or_assoc, BitVec.or_comm (_ <<< _), Nat.add_sub_cancel' upper]
    · rw [show n + 1 - 8 = n - 8 by omega, show min (n + 1) 8 = n + 1 by omega,
        show min n 8 = n by omega, lowBytes, BitVec.or_assoc, BitVec.or_comm (_ <<< _)]

theorem tailKeys_eq_lowBytes (t : Vector Byte 15) (tl : BitVec 4) :
    tailKeys t tl =
      (lowBytes (byteAt t) (min tl.toNat 8), lowBytes (fun i => byteAt t (8 + i)) (tl.toNat - 8)) := by
  simp [tailKeys, tailKeysFrom_eq]

theorem tailKeys_fst (t : Vector Byte 15) (tl : BitVec 4) :
    (tailKeys t tl).1 = lowBytes (maskedTail t tl) 8 := by
  rw [tailKeys_eq_lowBytes]
  exact (lowBytes_below _ _ _).symm

theorem tailKeys_snd (t : Vector Byte 15) (tl : BitVec 4) :
    (tailKeys t tl).2 = lowBytes (fun i => maskedTail t tl (8 + i)) 7 := by
  simp only [maskedTail, ← Nat.lt_sub_iff_add_lt']
  rw [tailKeys_eq_lowBytes, lowBytes_below, show min (tl.toNat - 8) 7 = tl.toNat - 8 by omega]

/-- The keys are the little-endian words of the tail, whose byte 15 does not exist. -/
theorem tailKeys_eq_le64 (t : Vector Byte 15) (tl : BitVec 4) :
    tailKeys t tl = (le64 (maskedTail t tl) 0, le64 (maskedTail t tl) 8) := by
  have low : le64 (maskedTail t tl) 0 = (tailKeys t tl).1 := by
    rw [le64_eq_lowBytes, tailKeys_fst]
    simp only [Nat.zero_add]
  have high : le64 (maskedTail t tl) 8 = (tailKeys t tl).2 := by
    rw [le64_eq_lowBytes, tailKeys_snd]
    exact lowBytes_succ_of_zero (if_neg (by omega))
  rw [low, high]

theorem tailKeys_fst_eq_zero (t : Vector Byte 15) {tl : BitVec 4} (none : tl.toNat < 1) :
    (tailKeys t tl).1 = 0 := by
  rw [tailKeys_eq_lowBytes, show min tl.toNat 8 = 0 by omega, lowBytes]

theorem tailKeys_snd_eq_zero (t : Vector Byte 15) {tl : BitVec 4} (few : tl.toNat < 9) :
    (tailKeys t tl).2 = 0 := by
  rw [tailKeys_eq_lowBytes, show tl.toNat - 8 = 0 by omega, lowBytes]

/-! ## Finalization -/

theorem finalize_eq (h1 h2 : Word) (t : Vector Byte 15) (tl : BitVec 4) (total : Word) :
    finalize h1 h2 t tl total =
      finishMix (if 1 ≤ tl.toNat then h1 ^^^ mixK1 (tailKeys t tl).1 else h1)
        (if 9 ≤ tl.toNat then h2 ^^^ mixK2 (tailKeys t tl).2 else h2) total := (rfl)

theorem mixK1_zero : mixK1 0 = 0 := by decide

theorem mixK2_zero : mixK2 0 = 0 := by decide

theorem gate_eq_ungated {p : Prop} [Decidable p] {h m : Word} (zero : ¬p → m = 0) :
    (if p then h ^^^ m else h) = h ^^^ m := by
  split_ifs with gate
  · rfl
  · rw [zero gate]
    exact BitVec.xor_zero.symm

/-- A fold that the gate keeps out would fold in the mix of a zero key, which is 0. -/
theorem finalize_eq_ungated (h1 h2 : Word) (t : Vector Byte 15) (tl : BitVec 4) (total : Word) :
    finalize h1 h2 t tl total =
      finishMix (h1 ^^^ mixK1 (tailKeys t tl).1) (h2 ^^^ mixK2 (tailKeys t tl).2) total := by
  rw [finalize_eq, gate_eq_ungated fun few => ?_, gate_eq_ungated fun few => ?_]
  · rw [tailKeys_snd_eq_zero t (by omega), mixK2_zero]
  · rw [tailKeys_fst_eq_zero t (by omega), mixK1_zero]

/-- Settles O7: the loop's keys as words of the tail; since their bytes share no bit, `^` and `+` do what
`|` does. -/
theorem tailSwitchIsInclusive : Obligations.TailSwitchIsInclusive := by
  refine ⟨fun t tl => ⟨tailKeys_eq_le64 t tl, ?_, ?_, ?_, ?_⟩, fun h1 h2 t tl total => ?_, by decide⟩
  · rw [foldl_eq_lowBytes xor_eq_or_of_and_eq_zero, tailKeys_fst]; rfl
  · rw [foldl_eq_lowBytes xor_eq_or_of_and_eq_zero (fun i => 8 + i < tl.toNat), tailKeys_snd]; rfl
  · rw [foldl_eq_lowBytes BitVec.add_eq_or_of_and_eq_zero, tailKeys_fst]; rfl
  · rw [foldl_eq_lowBytes BitVec.add_eq_or_of_and_eq_zero, tailKeys_snd]; rfl
  · have gate (n : Nat) (x h : Word) :
        (if tl.toNat ≤ n then h else x) = if n + 1 ≤ tl.toNat then x else h := by
      simp only [Nat.succ_le_iff, ← Nat.not_le, ite_not]
    rw [gate, gate, finalize_eq]

/-- Settles O8: the steps are those of the definition; the example is closed. -/
theorem finalizationIsTheStatedOne : Obligations.FinalizationIsTheStatedOne :=
  ⟨fun _ _ _ _ _ => ⟨_, _, _, _, _, _, rfl, rfl, rfl, rfl, rfl, rfl, rfl⟩, by decide⟩

/-- Settles O9: the keys behind the gates are 0, and so are their mixes. -/
theorem tailFoldGatesAreUnobservable : Obligations.TailFoldGatesAreUnobservable := by
  refine ⟨mixK1_zero, mixK2_zero, fun h1 h2 t tl total =>
    ⟨tailKeys_snd_eq_zero t, fun none => ?_, finalize_eq_ungated h1 h2 t tl total⟩⟩
  rw [none]
  exact tailKeys_fst_eq_zero t (by decide)

/-! ## The empty input (R67) -/

theorem oneShot_nil (seed : Seed) :
    oneShot seed [] = finalize (seedWord seed) (seedWord seed) (seqTail []) 0 0 := (rfl)

/-- Settles O11: no block is mixed, and with `tl` = 0 no byte of the tail is read. -/
theorem emptyInputDigest : Obligations.EmptyInputDigest := by
  refine ⟨fun seed t => ?_, by decide, by decide⟩
  rw [oneShot_nil]
  exact finalize_congr (tl := 0) (fun i read => absurd read (Nat.not_lt_zero i)) _ _ _

end Sys2Proof.Machine
end

section
/-! The block mixer's commands as whole next states, and the words they decode from
(40_block_mixer.md R69 to R73). -/

namespace Sys2Proof.Machine

/-- Settles O20: NOP only occupies the block; accepting a word counts it first. -/
theorem nopOnlyTakesItsPlace : Obligations.NopOnlyTakesItsPlace := by
  refine ⟨exec_nop, fun s w op => ?_⟩
  rw [accept_of_ok (decode_op0 op), exec_nop]
  rfl

theorem seedWord_eq_append (seed : Seed) : seedWord seed = 0#32 ++ seed :=
  BitVec.setWidth_eq_append (by decide)

/-- Settles O21: the seed word on both halves; the stream registers take their reset values. -/
theorem initLoadsTheSeed : Obligations.InitLoadsTheSeed := by
  refine ⟨fun s seed => ?_, fun hs w op => ?_⟩
  · rw [exec_init, State.setAcc_clearStream_occupy, seedWord_eq_append]
    rfl
  · rw [decode_op1 op, cmdData_extractLsb' w (by omega)]

/-- Settles O22: the operands are the two halves of DATA. -/
theorem loadhWritesThePair : Obligations.LoadhWritesThePair := by
  refine ⟨fun s a b => ?_, fun hs w op => ?_, by decide⟩
  · rw [exec_loadh, State.setAcc_occupy]
  · rw [decode_op4 op, cmdData_extractLsb' w (by omega), cmdData_extractLsb' w (by omega)]

/-- Settles O23: the words read from the lanes 0 and 8 on are the halves of DATA the decoder hands over. -/
theorem blockMixesThePair : Obligations.BlockMixesThePair := by
  refine ⟨fun s k1 k2 => ?_, fun hs w op => ?_, by decide⟩
  · rw [exec_block, State.setAcc_occupy]
  · rw [decode_op2 op, le64_lane, le64_lane]

theorem tailLen_eq_ofNat (len : BitVec 5) : tailLen len = BitVec.ofNat 4 len.toNat :=
  BitVec.eq_of_toNat_eq (by simp [tailLen])

/-- Settles O24, by LEN[4]: the digest latch alone is written, or CmdError raised with cause 2. -/
theorem finalLatchesTheDigest : Obligations.FinalLatchesTheDigest := by
  refine ⟨fun s len tail total legal => ?_, fun s len tail total bad => ?_, fun hs w op => ?_⟩
  · rw [exec_final_legal tail total s legal, State.setDigest_occupy, tailLen_eq_ofNat]
    rfl
  · rw [exec_final_bad tail total s bad, cmdError_eq]
    rfl
  · have len4 : (cmdLen w)[4] = w[12] := by simp [cmdLen]
    rw [decode_op3 op, len4, cmdData_extractLsb' w (by omega)]
    rfl

end Sys2Proof.Machine
end

section
/-! The one-shot digest from its two command sequences: ONESHOT's BLOCKs and FINAL, and a stream of
UPDATEs (41_streaming_hasher.md R84, R85, R87). -/

namespace Sys2Proof.Machine

/-! ## ONESHOT's commands -/

/-- Accepting an encoded legal command runs it. -/
theorem accept_encode {i : Instr} {s : State} (wf : i.wf = true) (present : i.present s.hasStream = true) :
    accept (encode i) s = exec i s.count := by
  rw [accept_of_ok (decode_encode wf present), exec_dropIgnored]

/-- The lanes of a packed piece are the bytes of its place in the sequence. -/
theorem lane_packBytes_piece (bytes : List Byte) (j : Nat) {i : Nat} (hi : i < 16) :
    lane (packBytes (piece bytes j)) i = seqByte (bytes.drop (16 * j)) i := by
  rw [lane_packBytes _ hi, piece, seqByte, seqByte, List.getElem?_take_of_lt hi]

/-- BLOCK with the bytes of piece `j` mixes block `j`. -/
theorem accept_block_piece (bytes : List Byte) (j : Nat) (s : State) :
    ∃ t, accept (encode (blockOf (piece bytes j))) s = .next t ∧
      (t.h1, t.h2) = mixBlocks (bytes.drop (16 * j)) 1 (s.h1, s.h2) := by
  refine ⟨_, (accept_encode rfl rfl).trans (exec_block _ _ _), ?_⟩
  rw [← mixBytes_eq_mixBlocks_one (b := lane (packBytes (piece bytes j))) (j := 0) (s.h1, s.h2)
    fun i hi => by rw [Nat.zero_add, lane_packBytes_piece _ _ hi], mixBytes, le64_lane, le64_lane]
  simp only [State.occupy_h1, State.occupy_h2, State.setAcc_h1, State.setAcc_h2, Prod.mk.eta,
    State.count_h1, State.count_h2, Nat.mul_zero, Nat.zero_add, Nat.reduceMul]

/-- The BLOCKs of the first `n` pieces mix the first `n` blocks. -/
theorem acceptAll_blocks (bytes : List Byte) (n : Nat) (s : State) :
    ∃ t, acceptAll (((List.range n).map fun j => blockOf (piece bytes j)).map encode) s = .next t ∧
      (t.h1, t.h2) = mixBlocks bytes n (s.h1, s.h2) := by
  induction n with
  | zero => exact ⟨s, rfl, rfl⟩
  | succ n ih =>
    obtain ⟨t, run, pair⟩ := ih
    obtain ⟨u, block, pair'⟩ := accept_block_piece bytes n t
    refine ⟨u, ?_, by rw [pair', pair, ← mixBlocks_add]⟩
    rw [List.range_succ, List.map_append, List.map_append, acceptAll_append _ run, List.map_singleton,
      List.map_singleton, acceptAll_cons _ block, acceptAll]

/-- The bytes behind the complete blocks, packed for FINAL, are the one-shot digest's tail. -/
theorem byteAt_tailBytes_packBytes (bytes : List Byte) {i : Nat} (hi : i < bytes.length % 16) :
    byteAt (tailBytes ((packBytes (bytes.drop (16 * (bytes.length / 16)))).extractLsb' 0 120)) i =
      byteAt (seqTail bytes) i := by
  have start : bytes.length - bytes.length % 16 = 16 * (bytes.length / 16) := by omega
  rw [byteAt_tailBytes _ (by omega), lane_packBytes _ (by omega), seqByte_drop, seqTail,
    byteAt_ofFn _ (by omega), if_pos hi, start]

/-- FINAL with the rest of the bytes and their number finalizes the pair as the one-shot digest does. -/
theorem accept_final_rest (bytes : List Byte) (s : State) :
    ∃ t, accept (encode (finalOf (bytes.drop (16 * (bytes.length / 16))) bytes.length)) s = .next t ∧
      (t.d1, t.d2) = finalize s.h1 s.h2 (seqTail bytes) (BitVec.ofNat 4 bytes.length)
        (BitVec.ofNat 64 bytes.length) := by
  have rest : (bytes.drop (16 * (bytes.length / 16))).length = bytes.length % 16 := by
    rw [List.length_drop]; omega
  have legal := finalOf_wf (bytes := bytes.drop (16 * (bytes.length / 16))) (by omega) bytes.length
  have len4 : (BitVec.ofNat 5 (bytes.drop (16 * (bytes.length / 16))).length)[4] = false := by
    simpa only [finalOf, Instr.wf, Bool.not_eq_true'] using legal
  have tl : tailLen (BitVec.ofNat 5 (bytes.length % 16)) = BitVec.ofNat 4 bytes.length :=
    BitVec.eq_of_toNat_eq (by simp [tailLen])
  refine ⟨_, (accept_encode legal rfl).trans (exec_final_legal _ _ _ len4), ?_⟩
  rw [rest, tl, finalize_congr fun i hi => byteAt_tailBytes_packBytes bytes (by simpa using hi)]
  simp only [State.occupy_d1, State.occupy_d2, State.setDigest_d1, State.setDigest_d2, Prod.mk.eta,
    State.count_h1, State.count_h2]

/-- Settles O53: INIT loads the seed pair, the BLOCKs mix the complete blocks, FINAL finalizes with the
rest. -/
theorem oneShotProgramComputesOneShot : Obligations.OneShotProgramComputesOneShot := by
  intro s seed bytes _
  have init : accept (encode (.init seed)) s = _ := (accept_encode rfl rfl).trans (exec_init seed s.count)
  obtain ⟨u, blocks, pair⟩ := acceptAll_blocks bytes (bytes.length / 16)
    (((s.count.setAcc (seedWord seed, seedWord seed)).clearStream).occupy s.count.lat.init)
  obtain ⟨t, final, latch⟩ := accept_final_rest bytes u
  refine ⟨t, ?_, ?_⟩
  · rw [oneShotProgram, List.map_append, List.map_cons, List.cons_append, acceptAll_cons _ init,
      acceptAll_append _ blocks, List.map_singleton, acceptAll_cons _ final, acceptAll]
  · rw [State.occupy_h1, State.occupy_h2, State.clearStream_h1, State.clearStream_h2, State.setAcc_h1,
      State.setAcc_h2] at pair
    rw [latch, oneShot, ← pair]

/-- Settles O54: INIT, a stream of words, DIGEST. -/
theorem streamEqualsOneShot : Obligations.StreamEqualsOneShot :=
  fun _ _ _ _ _ present init digest words _ => acceptAll_stream present init digest words

/-! ## Two seeds -/

/-- Settles O12: two closed digests, which differ. -/
theorem seedSensitivity : Obligations.SeedSensitivity := by
  refine ⟨by decide, by decide, 0, 1, [0x68], by decide, by decide⟩

end Sys2Proof.Machine
end

section
/-! The digest latch is read by no command: two runs that begin with different latches differ in it only,
until one command writes it (41_streaming_hasher.md R83, R86). -/

namespace Sys2Proof.Machine

section
variable {s t : State} (d : Word × Word)

/-! ## One command -/

/-- A command that does not write the latch leaves another latch in it. -/
theorem exec_setDigest_of_not_writes {i : Instr} (keeps : writesDigest i = false)
    (h : exec i s = .next t) : exec i (s.setDigest d) = .next (t.setDigest d) := by
  cases i with
  | nop =>
    obtain rfl := exec_nop_eq h
    rfl
  | init seed =>
    obtain rfl := exec_init_eq h
    rfl
  | block k1 k2 =>
    obtain rfl := exec_block_eq h
    rw [exec_block]
    rfl
  | loadh a b =>
    obtain rfl := exec_loadh_eq h
    rfl
  | update len chunk =>
    rcases exec_update_cases h with ⟨hs, rfl⟩ | ⟨st, hs, ⟨hl, rfl⟩ | ⟨hl, rfl⟩⟩
    · exact exec_update_absent len chunk (s := s.setDigest d) hs
    · exact exec_update_tooLong chunk (s := s.setDigest d) hs hl
    · exact exec_update_legal (s := s.setDigest d) hs hl
  | final _ _ _ | digest => exact absurd keeps Bool.false_ne_true.symm

/-- A legal FINAL or DIGEST overwrites whatever the latch held. -/
theorem exec_setDigest_of_writes {i : Instr} (wf : i.wf = true) (present : i.present s.hasStream = true)
    (writes : writesDigest i = true) (h : exec i s = .next t) : exec i (s.setDigest d) = .next t := by
  cases i with
  | final len tail total =>
    have legal : len[4] = false := by simpa [Instr.wf] using wf
    rw [exec_final_legal _ _ _ legal] at h ⊢
    exact h
  | digest =>
    obtain ⟨st, hs⟩ := State.exists_stream present
    rw [exec_digest_present hs] at h
    rw [exec_digest_present (s := s.setDigest d) hs]
    exact h
  | nop | init _ | block _ _ | loadh _ _ | update _ _ => exact absurd writes Bool.false_ne_true

/-! ## Accepted words -/

theorem accept_hasStream {w : Cmd} (h : accept w s = .next t) : t.hasStream = s.hasStream :=
  congrArg Build.hasStream (accept_build h)

theorem accept_next (w : Cmd) (s : State) : ∃ t, accept w s = .next t := by
  obtain ⟨_, effect⟩ := accept_effect w s
  exact ⟨_, effect s rfl⟩

/-- A FINAL or DIGEST word overwrites whatever the latch held, any other word leaves it. -/
theorem accept_setDigest {w : Cmd} (h : accept w s = .next t) :
    accept w (s.setDigest d) = .next (if digestWord s.hasStream w then t else t.setDigest d) := by
  rcases accept_cases h with ⟨i, decoded, run⟩ | ⟨m, decoded, rfl⟩
  · obtain ⟨wf, present⟩ := decode_ok_legal decoded
    rw [accept_of_ok (s := s.setDigest d) decoded, digestWord, decoded]
    cases writes : writesDigest i with
    | true =>
      simp only [writes, if_true]
      exact exec_setDigest_of_writes (s := s.count) d wf present writes run
    | false =>
      simp only [writes, Bool.false_eq_true, if_false]
      exact exec_setDigest_of_not_writes (s := s.count) d writes run
  · rw [accept_of_error (s := s.setDigest d) decoded, digestWord, decoded]
    rfl

/-- The first FINAL or DIGEST among the words makes the latches equal. -/
theorem acceptAll_setDigest {ws : List Cmd} (h : acceptAll ws s = .next t) :
    acceptAll ws (s.setDigest d) = .next (if ws.any (digestWord s.hasStream) then t else t.setDigest d) := by
  induction ws generalizing s with
  | nil =>
    obtain rfl := Host.Outcome.next.inj h
    rfl
  | cons w ws ih =>
    obtain ⟨u, first⟩ := accept_next w s
    rw [acceptAll_cons ws first] at h
    rw [acceptAll_cons ws (accept_setDigest d first), List.any_cons]
    cases digestWord s.hasStream w with
    | true => simpa using h
    | false => simpa [accept_hasStream first] using ih h

end

/-- ERR and ECAUSE influence no accepted word's effect on the other registers. -/
theorem acceptAll_setErr {ws : List Cmd} {s t : State} (err : Bool) (ecause : BitVec 4)
    (h : acceptAll ws s = .next t) :
    ∃ err' ecause', acceptAll ws { s with err := err, ecause := ecause } =
      .next { t with err := err', ecause := ecause' } := by
  induction ws generalizing s err ecause with
  | nil =>
    obtain rfl := Host.Outcome.next.inj h
    exact ⟨err, ecause, rfl⟩
  | cons w ws ih =>
    obtain ⟨u, first⟩ := accept_next w s
    obtain ⟨v, first'⟩ := accept_next w { s with err := err, ecause := ecause }
    rw [errInfluencesNothingElse _ _ _ _ _ _ first first'] at first'
    rw [acceptAll_cons ws first] at h
    rw [acceptAll_cons ws first']
    exact ih _ _ h

theorem acceptAll_next (ws : List Cmd) (s : State) : ∃ t, acceptAll ws s = .next t := by
  induction ws generalizing s with
  | nil => exact ⟨s, rfl⟩
  | cons w ws ih =>
    obtain ⟨u, first⟩ := accept_next w s
    rw [acceptAll_cons ws first]
    exact ih u

/-- INIT leaves the state and its reset with the same registers, but for D1, D2, ERR and ECAUSE. -/
theorem accept_init_applyReset {w : Cmd} {seed : Seed} {s t : State}
    (init : decode s.hasStream w = .ok (.init seed)) (h : accept w s = .next t) :
    accept w s.applyReset = .next { t.setDigest (0, 0) with err := false, ecause := 0 } := by
  rw [accept_of_ok init] at h
  obtain rfl := exec_init_eq h
  rw [accept_of_ok (s := s.applyReset) (by rwa [State.applyReset_hasStream]), exec_init]
  refine congrArg Host.Outcome.next (State.eq_of_fields ?_ ?_ ?_ ?_ ?_ ?_ ?_ ?_ ?_ ?_ ?_ ?_) <;>
    simp [Function.comp_def]

/-- Settles O56: behind INIT the two runs differ in D1, D2, ERR and ECAUSE, which no command reads, and
the first FINAL or DIGEST makes the latches equal. -/
theorem resetCorrectness : Obligations.ResetCorrectness := by
  intro s seed winit ws init
  have first := (accept_of_ok init).trans (exec_init seed s.count)
  obtain ⟨t, run⟩ := acceptAll_next ws _
  obtain ⟨err, ecause, run'⟩ := acceptAll_setErr false 0 (acceptAll_setDigest (0, 0) run)
  refine ⟨t, _, (acceptAll_cons ws first).trans run,
    (acceptAll_cons ws (accept_init_applyReset init first)).trans run', ?_⟩
  rw [accept_hasStream first]
  cases latched : ws.any (digestWord s.hasStream) with
  | true => exact ⟨rfl, rfl, rfl, fun _ => ⟨rfl, rfl⟩⟩
  | false => exact ⟨rfl, rfl, rfl, fun some => absurd (List.any_eq_true.mpr some) (by simp [latched])⟩

end Sys2Proof.Machine
end

section
/-! UPDATE (41_streaming_hasher.md R75 to R77, R79, R81): what it leaves in the registers, the hidden bytes
of BUF among them, and where it raises CmdError (60_exceptions.md R90, R91). -/

namespace Sys2Proof.Machine

/-! ## The tail window -/

theorem tailUpdate_tailcnt (st : StreamRegs) (c : Nat → Byte) (n : Nat) :
    (tailUpdate st c n).tailcnt.toNat = min 15 (st.tailcnt.toNat + n) := by
  rw [← length_window, tailUpdate_window, length_lastOf, List.length_append, length_window,
    length_firstBytes]

/-- An empty chunk is appended, which writes nothing. -/
theorem tailUpdate_zero (st : StreamRegs) (c : Nat → Byte) : tailUpdate st c 0 = st := by
  have fits : st.tailcnt.toNat ≤ 15 := Nat.le_of_lt_succ st.tailcnt.isLt
  simp only [tailUpdate]
  rw [if_neg (by decide), if_neg (by omega), writeBytes_zero, Nat.add_zero, BitVec.ofNat_toNat,
    BitVec.setWidth_eq]

/-- Settles O27: the window is a list update, and the other registers are not written. -/
theorem tailWindowKeepsTheLastFifteen : Obligations.TailWindowKeepsTheLastFifteen :=
  ⟨tailUpdate_zero, fun st c n _ => ⟨tailUpdate_window st c n, tailUpdate_tailcnt st c n,
    tailUpdate_buf st c n, tailUpdate_bufcnt st c n, tailUpdate_total st c n⟩⟩

/-! ## A legal UPDATE -/

/-- Settles O25: a legal UPDATE absorbs its chunk; the counts are lengths. -/
theorem updateAbsorbsTheChunk : Obligations.UpdateAbsorbsTheChunk := by
  intro s st len chunk hs hl
  obtain ⟨acc, pending, window, total⟩ := takeChunk_absorbed (s.h1, s.h2) st (lane chunk) hl
  have both : (st.pending ++ firstBytes (lane chunk) len.toNat).length = st.bufcnt.toNat + len.toNat := by
    rw [List.length_append, length_pending, length_firstBytes]
  rw [both] at acc pending
  refine ⟨_, ?_, ?_, pending, ?_, ?_, window⟩
  · rw [exec_update_legal hs hl, State.setAcc_setStream_occupy, acc, chunkBytes]
  · rw [← length_pending, pending, List.length_drop, both]
    omega
  · rw [total, length_firstBytes, BitVec.ofNat_toNat]
  · rw [← length_window, window, length_lastOf, List.length_append, length_window, length_firstBytes]

/-! ## The bytes of BUF, hidden ones among them -/

section
variable (h : Word × Word) (st : StreamRegs) (c : Nat → Byte) {n : Nat}

/-- Steps 3 to 5 overwrite as many bytes of BUF as they leave pending. -/
theorem chunkRest_buf_partial {off : Nat} (hlt : n - off < 16) :
    (chunkRest h st c n off).2.buf = writeBytes st.buf 0 (n - off) fun i => c (off + i) := by
  have partly : decide (n - off ≥ 16) = false := decide_eq_false (by omega)
  simp only [chunkRest, tailUpdate_buf, partly, Bool.false_eq_true, if_false]

/-- A chunk that is one complete block goes past BUF. -/
theorem chunkRest_buf_whole {off : Nat} (hn : n - off = 16) : (chunkRest h st c n off).2.buf = st.buf := by
  have whole : decide (n - off ≥ 16) = true := decide_eq_true (by omega)
  have rest : n - (off + 16) = 0 := by omega
  simp only [chunkRest, tailUpdate_buf, whole, if_true, rest, writeBytes_zero]

/-- A chunk that completes no block is appended to the pending bytes. -/
theorem takeChunk_buf_of_fits (fits : st.bufcnt.toNat + n < 16) :
    (takeChunk h st c n).2.buf = writeBytes st.buf st.bufcnt.toNat n c := by
  simp only [takeChunk]
  split_ifs with pending fills
  · omega
  · rw [tailUpdate_buf]
  · rw [chunkRest_buf_partial _ _ _ (by omega)]
    simp only [Nat.zero_add, Nat.sub_zero, Classical.not_not.mp pending]

/-- A chunk that completes the pending block fills BUF, and its other bytes start BUF anew. -/
theorem takeChunk_buf_of_fills (hn : n ≤ 16) (pending : st.bufcnt.toNat ≠ 0)
    (fills : 16 ≤ st.bufcnt.toNat + n) :
    (takeChunk h st c n).2.buf =
      writeBytes (writeBytes st.buf st.bufcnt.toNat (16 - st.bufcnt.toNat) c) 0
        (n - (16 - st.bufcnt.toNat)) fun i => c (16 - st.bufcnt.toNat + i) := by
  simp only [takeChunk]
  rw [if_pos pending, if_pos fills, chunkRest_buf_partial _ _ _ (by omega)]

/-- A chunk of 16 bytes with none pending goes past BUF. -/
theorem takeChunk_buf_of_whole (none : st.bufcnt.toNat = 0) (hn : n = 16) :
    (takeChunk h st c n).2.buf = st.buf := by
  simp only [takeChunk]
  rw [if_neg (not_not.mpr none), chunkRest_buf_whole _ _ _ (by omega)]

/-- An empty chunk is appended, or is what steps 3 to 5 find with none pending. -/
theorem takeChunk_zero : takeChunk h st c 0 = (h, st) := by
  have bufcnt : BitVec.ofNat 4 st.bufcnt.toNat = st.bufcnt := by rw [BitVec.ofNat_toNat, BitVec.setWidth_eq]
  have fits : ¬st.bufcnt.toNat + 0 ≥ 16 := by have := st.bufcnt.isLt; omega
  simp only [takeChunk]
  split_ifs with pending
  · rw [tailUpdate_zero, writeBytes_zero, Nat.add_zero, bufcnt, BitVec.add_zero]
  · rw [Classical.not_not.mp pending] at bufcnt
    simp [chunkRest, tailUpdate_zero, writeBytes_zero, bufcnt]

end

/-- Settles O26, along the three ways through the pseudocode: the chunk is appended; it fills BUF and its
rest starts BUF anew; it is a whole block. -/
theorem updateKeepsUnwrittenBufferBytes : Obligations.UpdateKeepsUnwrittenBufferBytes := by
  intro s t st len chunk i hs hl hi h
  rw [exec_update_legal hs hl] at h
  obtain rfl := Host.Outcome.next.inj h
  refine ⟨_, rfl, fun fits => ?_, fun fills pending => ?_, fun fills none => ?_⟩
  · rw [takeChunk_buf_of_fits _ _ _ fits, byteAt_writeBytes _ _ _ _ hi]
  · have some_pending : st.bufcnt.toNat ≠ 0 := fun none => pending (BitVec.eq_of_toNat_eq none)
    have anew : 0 ≤ i ∧ i < 0 + (len.toNat - (16 - st.bufcnt.toNat)) ↔
        i < st.bufcnt.toNat + len.toNat - 16 := by omega
    have kept : ¬(st.bufcnt.toNat ≤ i ∧ i < st.bufcnt.toNat + (16 - st.bufcnt.toNat)) ↔
        i < st.bufcnt.toNat := by omega
    rw [takeChunk_buf_of_fills _ _ _ hl some_pending fills, byteAt_writeBytes _ _ _ _ hi,
      byteAt_writeBytes _ _ _ _ hi]
    simp only [anew, ← kept, ite_not, Nat.sub_zero]
  · have empty : st.bufcnt.toNat = 0 := congrArg BitVec.toNat none
    rw [takeChunk_buf_of_whole _ _ _ empty (by omega)]

/-! ## The empty chunk, and CmdError -/

/-- Settles O28: the effect of an empty chunk is the state's own pair and stream registers. -/
theorem emptyUpdateIsANoOp : Obligations.EmptyUpdateIsANoOp := by
  intro s chunk present
  obtain ⟨st, hs⟩ := State.exists_stream present
  rw [exec_update_legal hs (by decide), show (0 : BitVec 5).toNat = 0 from rfl,
    takeChunk_zero, State.setAcc_setStream_occupy, ← hs]

/-- Settles O29: without the module, or with it and too long a chunk, the effect is CmdError's. -/
theorem streamCommandsRaiseCmdError : Obligations.StreamCommandsRaiseCmdError := by
  refine ⟨fun s len chunk absent => ?_, fun s absent => ?_, fun s len chunk present long => ?_⟩
  · rw [exec_update_absent len chunk (State.stream_eq_none absent), cmdError_eq]
    rfl
  · rw [exec_digest_absent (State.stream_eq_none absent), cmdError_eq]
    rfl
  · obtain ⟨st, hs⟩ := State.exists_stream present
    rw [exec_update_tooLong chunk hs (by omega), cmdError_eq]
    rfl

end Sys2Proof.Machine
end

section
/-! DIGEST (41_streaming_hasher.md R78, R82, R83): the snapshot it finalizes, and that it writes the digest
latch only. -/

namespace Sys2Proof.Machine

/-! ## The tail of coherent registers -/

section
variable {st : StreamRegs}

theorem digestTailLen_eq_ofNat (st : StreamRegs) : digestTailLen st = BitVec.ofNat 4 st.total.toNat :=
  BitVec.eq_of_toNat_eq (by simp [digestTailLen])

/-- The window is full or holds every byte counted, so it covers the tail. -/
theorem StreamCoherent.tail_le_tailcnt (coherent : StreamCoherent st) :
    st.total.toNat % 16 ≤ st.tailcnt.toNat := by
  obtain ⟨_, tailcnt, _⟩ := coherent
  omega

/-- The window ends with the pending bytes. -/
theorem StreamCoherent.byteAt_tail (coherent : StreamCoherent st) {i : Nat}
    (hi : i < st.total.toNat % 16) :
    byteAt st.tail (st.tailcnt.toNat - st.total.toNat % 16 + i) = byteAt st.buf i := by
  have covers := coherent.tail_le_tailcnt
  obtain ⟨bufcnt, _, pending⟩ := coherent
  have byte := congrArg (seqByte · i) pending
  simp only [lastOf, seqByte_drop, length_window] at byte
  rw [StreamRegs.pending, StreamRegs.window, seqByte_firstBytes (by omega),
    seqByte_firstBytes (by omega), bufcnt] at byte
  exact byte.symm

/-- Where the window covers the tail, no tail byte is free. -/
theorem digestTail_of_covers (covers : st.total.toNat % 16 ≤ st.tailcnt.toNat) :
    digestTail st = Vector.ofFn fun i =>
      if i.1 < st.total.toNat % 16 then byteAt st.tail (st.tailcnt.toNat - st.total.toNat % 16 + i.1)
      else 0x00 := by
  have tl : (digestTailLen st).toNat = st.total.toNat % 16 := by
    rw [digestTailLen_eq_ofNat, BitVec.toNat_ofNat]
  refine congrArg Vector.ofFn (funext fun i => ?_)
  simp only [tl]
  rw [if_pos (by omega : st.total.toNat % 16 ≤ st.tailcnt.toNat + i.1), Nat.sub_add_comm covers]

/-- The tail may as well be taken from BUF (R78). -/
theorem StreamCoherent.digestTail_eq_buf (coherent : StreamCoherent st) :
    digestTail st = Vector.ofFn fun i => if i.1 < st.bufcnt.toNat then byteAt st.buf i.1 else 0x00 := by
  obtain ⟨bufcnt, _⟩ := id coherent
  rw [digestTail_of_covers coherent.tail_le_tailcnt, bufcnt]
  refine congrArg Vector.ofFn (funext fun i => ?_)
  split_ifs with inTail
  · exact coherent.byteAt_tail inTail
  · rfl

theorem StreamCoherent.digestTailLen_eq_bufcnt (coherent : StreamCoherent st) :
    digestTailLen st = st.bufcnt := by
  obtain ⟨bufcnt, _⟩ := coherent
  exact BitVec.eq_of_toNat_eq (by rw [digestTailLen_eq_ofNat, BitVec.toNat_ofNat, bufcnt])

end

/-! ## DIGEST as a whole next state -/

/-- Settles O30: the window covers the tail and ends with the pending bytes. -/
theorem digestFinalizesASnapshot : Obligations.DigestFinalizesASnapshot := by
  refine ⟨fun s absent => ?_, fun s st hs coherent =>
    ⟨coherent.tail_le_tailcnt, fun i hi => coherent.byteAt_tail hi, _, rfl, ?_⟩⟩
  · rw [exec_digest_absent absent, cmdError_eq]
    rfl
  · rw [exec_digest_present hs, State.setDigest_occupy, digestTail_of_covers coherent.tail_le_tailcnt,
      digestTailLen_eq_ofNat]

/-- Settles O31: of coherent registers the pending bytes are the tail and BUFCNT its length. -/
theorem digestTailMayComeFromTheBuffer : Obligations.DigestTailMayComeFromTheBuffer := by
  intro s st hs coherent
  rw [exec_digest_present hs, State.setDigest_occupy, coherent.digestTail_eq_buf,
    coherent.digestTailLen_eq_bufcnt]

/-- Settles O32: the tail DIGEST takes is defined in every state. -/
theorem digestCompletesEverywhere : Obligations.DigestCompletesEverywhere := by
  intro s present
  obtain ⟨st, hs⟩ := State.exists_stream present
  exact ⟨_, _, by rw [exec_digest_present hs, State.setDigest_occupy]⟩

/-! ## DIGEST is non-destructive (R83) -/

section
variable {s t : State}

/-- DIGEST reads H1, H2, TAIL, TAILCNT and TOTAL only. -/
theorem exec_digest_congr {s' t' : State} {st st' : StreamRegs} (hs : s.stream = some st)
    (hs' : s'.stream = some st') (h1 : s.h1 = s'.h1) (h2 : s.h2 = s'.h2) (tail : st.tail = st'.tail)
    (tailcnt : st.tailcnt = st'.tailcnt) (total : st.total = st'.total) (h : exec .digest s = .next t)
    (h' : exec .digest s' = .next t') : t.d1 = t'.d1 ∧ t.d2 = t'.d2 := by
  have len : digestTailLen st = digestTailLen st' := by rw [digestTailLen, digestTailLen, total]
  have bytes : digestTail st = digestTail st' := by simp only [digestTail, len, tail, tailcnt]
  rw [exec_digest_present hs, h1, h2, len, bytes, total] at h
  rw [exec_digest_present hs'] at h'
  obtain rfl := Host.Outcome.next.inj h
  obtain rfl := Host.Outcome.next.inj h'
  exact ⟨rfl, rfl⟩

/-- A second DIGEST reads the same registers, or both raise CmdError. -/
theorem exec_digest_twice {u : State} (h : exec .digest s = .next t) (h' : exec .digest t = .next u) :
    u.d1 = t.d1 ∧ u.d2 = t.d2 := by
  have stream := exec_stream_frame rfl h
  obtain ⟨h1, h2⟩ := Prod.mk.inj (exec_acc_frame rfl h)
  cases hs : s.stream with
  | none =>
    rw [exec_digest_absent (stream.trans hs)] at h'
    obtain rfl := Host.Outcome.next.inj h'
    exact ⟨cmdError_d1 _ _, cmdError_d2 _ _⟩
  | some st => exact exec_digest_congr (stream.trans hs) hs h1 h2 rfl rfl rfl h' h

/-- Where the module is present, DIGEST writes the latch and BUSY. -/
theorem exec_digest_latches (present : s.hasStream = true) (h : exec .digest s = .next t) :
    ∃ d l, t = (s.setDigest d).occupy l := by
  obtain ⟨st, hs⟩ := State.exists_stream present
  rw [exec_digest_present hs] at h
  exact ⟨_, _, (Host.Outcome.next.inj h).symm⟩

/-- A command that does not write the latch goes on behind another latch and BUSY as without them. -/
theorem exec_setDigest_occupy {i : Instr} (keeps : writesDigest i = false) (d : Word × Word) (l : Nat)
    (h : exec i s = .next t) : exec i ((s.setDigest d).occupy l) = .next (t.setDigest d) := by
  have same : SameRegs (s.setDigest d) ((s.setDigest d).occupy l) := ⟨rfl, rfl, rfl, rfl, rfl, rfl⟩
  obtain ⟨e, written, effect⟩ :=
    exec_eq_write_of_sameRegs same (exec_setDigest_of_not_writes d keeps h)
  rw [effect, written]
  cases e <;> rfl

end

/-- Settles O33: DIGEST reads what R83 lists and writes the latch and BUSY, neither of which DIGEST or
UPDATE reads. -/
theorem digestIsNonDestructive : Obligations.DigestIsNonDestructive := by
  refine ⟨fun _ _ _ _ _ _ hs hs' h1 h2 tail tailcnt total h h' =>
    exec_digest_congr hs hs' h1 h2 tail tailcnt total h h', fun _ _ _ h h' => exec_digest_twice h h',
    fun s t present h => ?_, fun s t u v len chunk present digest after without => ?_⟩
  · obtain ⟨d, l, rfl⟩ := exec_digest_latches present h
    rfl
  · obtain ⟨d, l, rfl⟩ := exec_digest_latches present digest
    rw [exec_setDigest_occupy rfl d l without] at after
    obtain rfl := Host.Outcome.next.inj after
    rfl

end Sys2Proof.Machine
end

section
/-! CmdError (60_exceptions.md R89, R94, R103): what a malformed word changes, that only reset clears it,
and the edges at which nothing is accepted. -/

namespace Sys2Proof.Machine

/-! ## A malformed word -/

/-- The first cause is recorded and kept (10_state.md R18). -/
theorem nextCause_eq (err : Bool) (ecause : BitVec 4) (m : Malformed) :
    nextCause err ecause m = if err = false then causeCode m else ecause := by
  cases err <;> rfl

/-- Settles O36: accepting the word counts it and raises CmdError. -/
theorem malformedWordSetsErr : Obligations.MalformedWordSetsErr := by
  intro s w m malformed
  rw [accept_of_error malformed, cmdError_eq, nextCause_eq]
  rfl

/-! ## ERR = 1 stays -/

/-- A word accepted while ERR = 1 leaves ERR and ECAUSE: a legal command writes neither, and CmdError finds
a cause recorded already. -/
theorem accept_err_sticky {w : Cmd} {s t : State} (err : s.err = true) (h : accept w s = .next t) :
    t.err = true ∧ t.ecause = s.ecause := by
  rcases accept_cases h with ⟨i, decoded, _⟩ | ⟨m, _, rfl⟩
  · obtain ⟨errKept, ecauseKept⟩ := (decodeBeforeWrite s t w h).2 i decoded
    exact ⟨errKept.trans err, ecauseKept⟩
  · rw [cmdError_err, cmdError_ecause, State.count_err, err]
    exact ⟨rfl, rfl⟩

/-- Settles O37, along the kinds of edge; INIT is a command that is always legal. -/
theorem errIsStickyUntilReset : Obligations.ErrIsStickyUntilReset := by
  refine ⟨fun s t h err noReset => ?_, fun s t h reset => ?_, fun s t seed h => exec_err_frame rfl rfl h⟩
  · rcases step_cases h with ⟨reset, _⟩ | ⟨_, _, rfl⟩ | ⟨_, _, _, accepted⟩ | ⟨_, _, _, rfl⟩
    · simp [noReset] at reset
    · exact ⟨err, rfl⟩
    · exact accept_err_sticky (s := s.tick) err accepted
    · exact ⟨err, rfl⟩
  · rcases step_cases h with ⟨_, rfl⟩ | ⟨noReset, _⟩ | ⟨noReset, _⟩ | ⟨noReset, _⟩
    · exact ⟨State.applyReset_err _, State.applyReset_ecause _⟩
    all_goals simp [reset] at noReset

/-! ## An edge that accepts nothing -/

/-- Settles O42: a busy block counts one cycle down; an idle one has none left, and nothing is offered. -/
theorem idleEdgeHoldsTheRegisters : Obligations.IdleEdgeHoldsTheRegisters := by
  intro s noReset noAccept
  obtain ⟨t, h⟩ := step_next s
  rw [h]
  rcases step_cases h with ⟨reset, _⟩ | ⟨_, _, rfl⟩ | ⟨_, idle, valid, _⟩ | ⟨_, idle, _, rfl⟩
  · simp [noReset] at reset
  · rfl
  · simp [s.accepts_iff.mpr ⟨noReset, valid, idle⟩] at noAccept
  · rw [idle, Nat.zero_sub, ← idle]
    rfl

end Sys2Proof.Machine
end

section
/-! Reset at any edge, the edge that accepts a command and the edges of its latency
(70_reset_and_hazards.md R104, R106, R107, R108, R111), and the observation of a run (R114). -/

namespace Sys2Proof.Machine

/-! ## Reset -/

/-- What an edge with `rst = 1` leaves is the build's reset state, beside what is no register. -/
theorem State.applyReset_eq_resetOf (s : State) :
    s.applyReset =
      { State.resetOf s.build with pins := s.pins, index := s.index, cycle := s.cycle } := by
  have stream : (s.stream.map fun _ => StreamRegs.reset) =
      if s.hasStream then some StreamRegs.reset else none := by
    rw [State.hasStream]
    cases s.stream <;> rfl
  simp only [State.applyReset, State.clearStream, stream]
  rfl

theorem State.headPins_of_cons {s : State} {p : Pins} {ps : List Pins} (pins : s.pins = p :: ps) :
    s.headPins = p := by
  rw [State.headPins, pins, List.headD_cons]

theorem step_of_reset {s : State} (rst : s.headPins.rst = true) : step s = .next s.tick.applyReset := by
  rw [step, edge, if_pos rst]

/-- Settles O2: reset wins at the edge, and the edge's drive is used up. -/
theorem resetEdgeOverridesEverything : Obligations.ResetEdgeOverridesEverything := by
  intro s p ps pins rst
  rw [step_of_reset (by rwa [State.headPins_of_cons pins]), State.applyReset_eq_resetOf, State.tick_pins,
    pins]
  rfl

/-- Settles O3: INIT 0 leaves the registers of a reset but those it does not write. -/
theorem resetIsInitZeroWithLatchAndErrorCleared : Obligations.ResetIsInitZeroWithLatchAndErrorCleared := by
  intro s u h
  have zero : seedWord 0 = 0 := by decide
  rw [exec_init_eq h, State.setAcc_clearStream_occupy, zero]
  exact State.applyReset_eq_resetOf s

/-! ## The edge that accepts -/

theorem step_of_accepts {s : State} (accepts : s.accepts = true) :
    step s = accept s.headPins.cmd s.tick := by
  obtain ⟨rst, valid, idle⟩ := s.accepts_iff.mp accepts
  simp [step, edge, State.busyNow, rst, valid, idle]

/-- Settles O40: the edge accepts the word, and an accepted word that decodes runs. -/
theorem stepRunsTheDecodedCommand : Obligations.StepRunsTheDecodedCommand := by
  intro s p ps i pins rst valid idle decoded
  have head := State.headPins_of_cons pins
  rw [step_of_accepts (s.accepts_iff.mpr ⟨head ▸ rst, head ▸ valid, idle⟩), head,
    accept_of_ok (s := s.tick) decoded, State.tick, State.count, pins, List.tail_cons]

/-- An accepted word stays in flight for its latency. -/
theorem accept_busy {w : Cmd} {s t : State} (h : accept w s = .next t) :
    t.busy = latencyOf s.build w - 1 := by
  rw [latencyOf, show s.build.hasStream = s.hasStream from rfl]
  rcases accept_cases h with ⟨i, decoded, run⟩ | ⟨m, decoded, rfl⟩
  · obtain ⟨wf, present⟩ := decode_ok_legal decoded
    rw [decoded]
    cases i with
    | nop => rw [exec_nop_eq run]; rfl
    | init seed => rw [exec_init_eq run]; rfl
    | block k1 k2 => rw [exec_block_eq run]; rfl
    | final len tail total =>
      rcases exec_final_cases run with ⟨long, _⟩ | ⟨_, rfl⟩
      · simp [Instr.wf, long] at wf
      · rfl
    | loadh h1 h2 => rw [exec_loadh_eq run]; rfl
    | update len chunk =>
      rcases exec_update_cases run with ⟨absent, _⟩ | ⟨st, _, ⟨long, _⟩ | ⟨_, rfl⟩⟩
      · simp [Instr.present, State.hasStream_of_none (s := s) absent] at present
      · simp [Instr.wf, Nat.not_le.mpr long] at wf
      · rfl
    | digest =>
      rcases exec_digest_cases run with ⟨absent, _⟩ | ⟨st, _, rfl⟩
      · simp [Instr.present, State.hasStream_of_none (s := s) absent] at present
      · rfl
  · rw [decoded]
    rfl

/-! ## The edges of the latency -/

/-- While a command is in flight and no reset comes, an edge only counts down. -/
theorem run_busy {k : Nat} {s : State} (noReset : s.noReset k) (inFlight : k ≤ s.busy) :
    Host.Core.run core k s =
      .next { s with pins := s.pins.drop k, cycle := s.cycle + k, busy := s.busy - k } := by
  induction k generalizing s with
  | zero => rfl
  | succ k ih =>
    have busy : s.busy ≠ 0 := by omega
    have edge := idleEdgeHoldsTheRegisters s (State.noReset_head noReset)
      (by simp [← Bool.not_eq_true, s.accepts_iff, busy])
    rw [run_succ k edge, ih (State.noReset_step noReset edge) (by simp only; omega)]
    simp only [List.drop_tail, Nat.add_assoc, Nat.add_comm 1 k, Nat.sub_sub]

/-- Settles O43: the edges of a command in flight, all of them. -/
theorem everyCommandTerminates : Obligations.EveryCommandTerminates := by
  refine ⟨step_next, fun s noReset => ?_⟩
  rw [run_busy noReset le_rfl, Nat.sub_self]

/-- `k` edges from an accepting one: the command's effect, the clock aside, and what is left of its
latency. -/
theorem run_of_accepts {k : Nat} {s : State} (accepts : s.accepts = true) (pos : 1 ≤ k)
    (inLatency : k ≤ latencyOf s.build s.headPins.cmd) (noReset : s.noReset k) :
    ∃ t u : State, Host.Core.run core k s = .next t ∧ accept s.headPins.cmd s = .next u ∧
      t.timeless = u.timeless ∧ t.busy = latencyOf s.build s.headPins.cmd - k := by
  obtain ⟨k, rfl⟩ := Nat.exists_eq_add_of_le' pos
  obtain ⟨t, edge⟩ := step_next s
  have accepted := (step_of_accepts accepts).symm.trans edge
  have busy : t.busy = latencyOf s.build s.headPins.cmd - 1 :=
    accept_busy (s := s.tick) accepted
  obtain ⟨u, effect, same⟩ := accept_of_timeless (s := s.tick) (s' := s) rfl accepted
  refine ⟨_, u, (run_succ k edge).trans (run_busy (State.noReset_step noReset edge) (by omega)), effect,
    same, ?_⟩
  simp only [busy]
  omega

theorem State.ready_iff (s : State) : s.ready = true ↔ s.headPins.rst = false ∧ s.busy = 0 := by
  simp [State.ready, State.busyNow]

/-- Settles O44: cmd_ready is 0 in reset and 1 after it, and in the cycles of a latency it tells whether
any are left. -/
theorem readyReturnsAfterTheLatency : Obligations.ReadyReturnsAfterTheLatency := by
  refine ⟨fun s rst => ?_, fun s t rst h noReset => ?_, fun s k _ accepts pos inLatency noReset => ?_⟩
  · rw [(outputs_ready s).1, State.ready, rst]
    rfl
  · obtain rfl := Host.Outcome.next.inj ((step_of_reset rst).symm.trans h)
    rw [(outputs_ready _).1, State.ready_iff]
    exact ⟨noReset, State.applyReset_busy _⟩
  · obtain ⟨t, u, run, effect, same, busy⟩ := run_of_accepts accepts pos inLatency noReset
    refine ⟨t, u, run, effect, same, fun rst => ?_⟩
    have ready : t.ready = decide (k = latencyOf s.build s.headPins.cmd) := by
      rw [Bool.eq_iff_iff, State.ready_iff, decide_eq_true_iff, and_iff_right rst, busy]
      omega
    obtain ⟨readyPort, busyBit⟩ := outputs_ready t
    exact ⟨readyPort.trans ready, busyBit.trans (congrArg _ readyPort.symm), fun last =>
      (outputs_of_ready (ready.trans (decide_eq_true last))).trans (readyOutputs_of_timeless same)⟩

/-! ## The observation -/

/-- Settles O48, by what the ports show in a ready cycle. -/
theorem observationReadsTheRegisters : Obligations.ObservationReadsTheRegisters := by
  intro s ready
  obtain ⟨h1, h2, d1, d2, _, _, err, _, _, ecause, present, absent⟩ := portsShowTheRegisters.2 s ready
  refine ⟨fun st stream => ?_, fun stream => ?_⟩
  · obtain ⟨bufcnt, tailcnt, total⟩ := present st stream
    simp only [Outputs.observation, h1, h2, d1, d2, err, ecause, bufcnt, tailcnt, total]
  · obtain ⟨bufcnt, tailcnt, total⟩ := absent (State.hasStream_of_none stream)
    simp only [Outputs.observation, h1, h2, d1, d2, err, ecause, bufcnt, tailcnt, total]

end Sys2Proof.Machine
end
